-- ==== Sys2Proof/Word.lean ====
section
/-! DEFINITION. The value types of 00_scope.md rule R12. Every port carries whole values, bit 0 least significant (R11). -/

namespace Sys2Proof

/-- `u64`, a 64-bit value: a command operand, a response field, `SEQ` (R12, R102, R104). -/
abbrev U64 := BitVec 64

/-- `i64`, a 64-bit two's complement integer: timestamps and lengths (R12). Compared as signed through `toInt`. -/
abbrev I64 := BitVec 64

/-- `u32`, a 32-bit counter (R12, R50). -/
abbrev U32 := BitVec 32

/-- `i32`, a 32-bit two's complement integer: a channel value in microseconds (R12, R18). -/
abbrev I32 := BitVec 32

end Sys2Proof
end

