-- ==== Sys2Proof/Syntax.lean ====
section
/-! DEFINITION. The commands and events of spec/opcode_table.json, the words of the block's input ports (30_encoding.md
rule R100), and the choices of the environment (00_scope.md rules R15, R16). -/

namespace Sys2Proof

/-- One constructor per row of spec/opcode_table.json. A host command carries the operands rule R106 says it reads, and no
other (R102: the others are ignored "whatever they hold"); an illegal row carries the bits of its command word that the row
leaves free (R109). -/
inductive Instr where
  /-- WIDTH, OP 0x1 (R236). -/
  | width (on off : U64)
  /-- FROM_WIDTH, OP 0x2 (R238). -/
  | fromWidth (width delay : U64)
  /-- WIDTH_TO_MS, OP 0x3 (R240). -/
  | widthToMs (freq ticks : U64)
  /-- FROM_WIDTH_MS, OP 0x4 (R242). -/
  | fromWidthMs (widthMs freq delayMs : U64)
  /-- FREQ_FROM_PRESCALE, OP 0x5 (R244). -/
  | freqFromPrescale (prescale clock : U64)
  /-- PRESCALE_FROM_FREQ, OP 0x6 (R246). -/
  | prescaleFromFreq (freq clock : U64)
  /-- READ_CHANNELS, OP 0x8 (R208). -/
  | readChannels
  /-- READ_STATUS, OP 0x9 (R271). -/
  | readStatus (index : U64)
  /-- STOP, OP 0xA (R270). -/
  | stop
  /-- ILLEGAL_OP_0x0: OP 0x0 with any RSVD (R109, R275). -/
  | illegalOp0 (rsvd : BitVec 28)
  /-- ILLEGAL_OP_0x7: OP 0x7 with any RSVD (R109, R275). -/
  | illegalOp7 (rsvd : BitVec 28)
  /-- ILLEGAL_OP_0xB: OP 0xB with any RSVD (R109, R275). -/
  | illegalOpB (rsvd : BitVec 28)
  /-- ILLEGAL_OP_0xC: OP 0xC with any RSVD (R109, R275). -/
  | illegalOpC (rsvd : BitVec 28)
  /-- ILLEGAL_OP_0xD: OP 0xD with any RSVD (R109, R275). -/
  | illegalOpD (rsvd : BitVec 28)
  /-- ILLEGAL_OP_0xE: OP 0xE with any RSVD (R109, R275). -/
  | illegalOpE (rsvd : BitVec 28)
  /-- ILLEGAL_OP_0xF: OP 0xF with any RSVD (R109, R275). -/
  | illegalOpF (rsvd : BitVec 28)
  /-- ILLEGAL_RSVD: RSVD not 0 with an OP that no illegal row takes (R109, R275; log 8). -/
  | illegalRsvd (op : BitVec 4) (rsvd : BitVec 28)
  /-- EDGE: an edge arrives (R130, R103). -/
  | edge (rising : Bool) (ts : I64)
  /-- RESET: the reset pin is asserted for one step (R330). -/
  | reset
  deriving DecidableEq, Repr

/-- The three input formats of rule R100, each one word. -/
inductive PortWord where
  /-- CMD: a 32-bit command word and the operands A, B, C (R101, R102). -/
  | cmd (word : BitVec 32) (a b c : U64)
  /-- EDGE_EVENT: bit 64 is R, bits 63:0 are TS (R103). -/
  | edge (word : BitVec 65)
  /-- RST: the level of the reset pin (R100). -/
  | rst (pin : BitVec 1)
  deriving DecidableEq, Repr, Inhabited

/-- The formats a port word can have (R100). -/
inductive Format where
  | cmd | edgeEvent | rst
  deriving DecidableEq, Repr

/-- One choice of the environment: which agent has its turn, with what word on its port or with what draw (R15, R16, R83).
The words are raw: the machine decodes them. -/
inductive Action where
  /-- `HOST_k` presents a command word with its operands (R101, R102). -/
  | host (k : Nat) (word : BitVec 32) (a b c : U64)
  /-- `SRC` presents an edge word (R103). -/
  | src (word : BitVec 65)
  /-- `RST`: the level of the reset pin (R100, R330). -/
  | rst (pin : BitVec 1)
  /-- `ESYNC`: ESYNC_W2R with the draw k (R134). -/
  | esyncW2R (k : Nat)
  /-- `ESYNC`: ESYNC_R2W with the draw k (R135). -/
  | esyncR2W (k : Nat)
  /-- `DEC`: DECODE (R170). -/
  | decode
  /-- `FSYNC`: FSYNC_W2R with the draw k (R200). -/
  | fsyncW2R (k : Nat)
  /-- `FSYNC`: FSYNC_R2W with the draw k (R201). -/
  | fsyncR2W (k : Nat)
  /-- `DISP`: DISPATCH (R205). -/
  | dispatch
  deriving DecidableEq, Repr, Inhabited

end Sys2Proof
end

