-- ==== Sys2Proof/WellFormed.lean ====
section
/-! DEFINITION. Which terms of `Instr` stand for a word: the rows of opcode_table.json do not overlap (log 8). -/

namespace Sys2Proof

/-- The OP values that name a command (R105): the nine that no ILLEGAL_OP row takes. -/
def opAssigned (op : BitVec 4) : Bool :=
  op == 0x1 || op == 0x2 || op == 0x3 || op == 0x4 || op == 0x5 || op == 0x6 || op == 0x8 || op == 0x9 || op == 0xA

/-- The row ILLEGAL_RSVD holds the words "no row above matches": RSVD is not 0 and the OP is an assigned one. Every other
constructor's fields are free: an operand out of range is answered with a status (R106), it is not ill-formed. -/
def Instr.wf : Instr → Bool
  | .illegalRsvd op rsvd => rsvd != 0 && opAssigned op
  | .width _ _ | .fromWidth _ _ | .widthToMs _ _ | .fromWidthMs _ _ _ | .freqFromPrescale _ _ | .prescaleFromFreq _ _ => true
  | .readChannels | .readStatus _ | .stop => true
  | .illegalOp0 _ | .illegalOp7 _ | .illegalOpB _ | .illegalOpC _ | .illegalOpD _ | .illegalOpE _ | .illegalOpF _ => true
  | .edge _ _ | .reset => true

end Sys2Proof
end

