-- ==== Sys2Proof/Decode.lean ====
section
/-! DEFINITION. The decoder from port words to `Instr` (30_encoding.md rules R101 to R109, R115), the encoder, and the
opcode table's numbering of an instruction's bits. -/

namespace Sys2Proof

/-- Why a port word names no operation. -/
inductive DecodeError where
  /-- The reset pin is not asserted: the line carries no reset request (R100, R330; log 9). -/
  | resetNotAsserted
  deriving DecidableEq, Repr

/-- Field OP of a command word, bits 3:0 (R101). -/
def cmdOp (word : BitVec 32) : BitVec 4 := word.extractLsb' 0 4

/-- Field RSVD of a command word, bits 31:4 (R101). -/
def cmdRsvd (word : BitVec 32) : BitVec 28 := word.extractLsb' 4 28

/-- A command word from its fields `{RSVD, OP}` (R11, R101). -/
def cmdWord (rsvd : BitVec 28) (op : BitVec 4) : BitVec 32 := rsvd ++ op

/-- A legal row matches only when all 32 bits do (R115): with RSVD not 0 the word is illegal (R109). -/
def unlessRsvd (op : BitVec 4) (rsvd : BitVec 28) (i : Instr) : Instr :=
  if rsvd = 0 then i else .illegalRsvd op rsvd

/-- The opcode map of rule R105 with the operand assignment of rule R106. Every command word has a meaning. -/
def decodeCmd (word : BitVec 32) (a b c : U64) : Instr :=
  let op := cmdOp word
  let rsvd := cmdRsvd word
  match op.toNat with
  | 0x0 => .illegalOp0 rsvd
  | 0x1 => unlessRsvd op rsvd (.width a b)
  | 0x2 => unlessRsvd op rsvd (.fromWidth a b)
  | 0x3 => unlessRsvd op rsvd (.widthToMs a b)
  | 0x4 => unlessRsvd op rsvd (.fromWidthMs a b c)
  | 0x5 => unlessRsvd op rsvd (.freqFromPrescale a b)
  | 0x6 => unlessRsvd op rsvd (.prescaleFromFreq a b)
  | 0x7 => .illegalOp7 rsvd
  | 0x8 => unlessRsvd op rsvd .readChannels
  | 0x9 => unlessRsvd op rsvd (.readStatus a)
  | 0xA => unlessRsvd op rsvd .stop
  | 0xB => .illegalOpB rsvd
  | 0xC => .illegalOpC rsvd
  | 0xD => .illegalOpD rsvd
  | 0xE => .illegalOpE rsvd
  | _ => .illegalOpF rsvd

/-- An edge word: bit 64 is R, bits 63:0 are TS; every value is legal (R103). -/
def decodeEdge (word : BitVec 65) : Instr := .edge (word.getLsbD 64) (word.extractLsb' 0 64)

/-- The decoder, total on every word of every port. -/
def decode : PortWord → Except DecodeError Instr
  | .cmd word a b c => .ok (decodeCmd word a b c)
  | .edge word => .ok (decodeEdge word)
  | .rst pin => if pin = 1 then .ok .reset else .error .resetNotAsserted

/-- The encoder, from the tables of rules R101, R103, R105 and R106. Operands a command does not read are 0. -/
def encode : Instr → PortWord
  | .width on off => .cmd 0x00000001 on off 0
  | .fromWidth width delay => .cmd 0x00000002 width delay 0
  | .widthToMs freq ticks => .cmd 0x00000003 freq ticks 0
  | .fromWidthMs widthMs freq delayMs => .cmd 0x00000004 widthMs freq delayMs
  | .freqFromPrescale prescale clock => .cmd 0x00000005 prescale clock 0
  | .prescaleFromFreq freq clock => .cmd 0x00000006 freq clock 0
  | .readChannels => .cmd 0x00000008 0 0 0
  | .readStatus index => .cmd 0x00000009 index 0 0
  | .stop => .cmd 0x0000000A 0 0 0
  | .illegalOp0 rsvd => .cmd (cmdWord rsvd 0x0) 0 0 0
  | .illegalOp7 rsvd => .cmd (cmdWord rsvd 0x7) 0 0 0
  | .illegalOpB rsvd => .cmd (cmdWord rsvd 0xB) 0 0 0
  | .illegalOpC rsvd => .cmd (cmdWord rsvd 0xC) 0 0 0
  | .illegalOpD rsvd => .cmd (cmdWord rsvd 0xD) 0 0 0
  | .illegalOpE rsvd => .cmd (cmdWord rsvd 0xE) 0 0 0
  | .illegalOpF rsvd => .cmd (cmdWord rsvd 0xF) 0 0 0
  | .illegalRsvd op rsvd => .cmd (cmdWord rsvd op) 0 0 0
  | .edge rising ts => .edge (BitVec.ofBool rising ++ ts)
  | .reset => .rst 1

/-- The format of a port word (R100). -/
def PortWord.format : PortWord → Format
  | .cmd _ _ _ _ => .cmd
  | .edge _ => .edgeEvent
  | .rst _ => .rst

/-- The format opcode_table.json gives an instruction's row. -/
def Instr.format : Instr → Format
  | .edge _ _ => .edgeEvent
  | .reset => .rst
  | .width _ _ | .fromWidth _ _ | .widthToMs _ _ | .fromWidthMs _ _ _ | .freqFromPrescale _ _ | .prescaleFromFreq _ _ => .cmd
  | .readChannels | .readStatus _ | .stop => .cmd
  | .illegalOp0 _ | .illegalOp7 _ | .illegalOpB _ | .illegalOpC _ | .illegalOpD _ | .illegalOpE _ | .illegalOpF _ => .cmd
  | .illegalRsvd _ _ => .cmd

/-- The port word whose bits opcode_table.json numbers as `w`, of which the table gives `nbits` (log 7): the one-bit pin is a
row of at most one byte whose bit 0 is 1, the 65-bit edge word a row of nine bytes, and every other row a command word in
bits 31:0 with its operands A, B, C in bits 95:32, 159:96 and 223:160. -/
def tableWord (nbits w : Nat) : PortWord :=
  let v := w % 2 ^ nbits
  if nbits ≤ 8 ∧ v = 1 then .rst 1
  else if 65 ≤ nbits ∧ nbits ≤ 72 then .edge (BitVec.ofNat 65 v)
  else .cmd (BitVec.ofNat 32 v) (BitVec.ofNat 64 (v / 2 ^ 32)) (BitVec.ofNat 64 (v / 2 ^ 96)) (BitVec.ofNat 64 (v / 2 ^ 160))

/-- What the decoder reads from an instruction whose bits are `w`, numbered as spec/opcode_table.json numbers them. -/
def decodeTableWord (nbits w : Nat) : Option Instr :=
  match decode (tableWord nbits w) with
  | .ok i => some i
  | .error _ => none

end Sys2Proof
end

