-- ==== Sys2Proof/Config.lean ====
section
/-! DEFINITION. The implementation parameters (00_scope.md rules R8 to R10, R16), their legal values, this block's values, and
the one free value: the environment's choice of the next step. -/

namespace Sys2Proof

/-- `VALUE_SEL`: what a captured channel stores (R8, R179). -/
inductive ValueSel where
  | high | length
  deriving DecidableEq, Repr

/-- `ROUND_TIES`: the tie rule of `RoundNearest` (R8, R13). -/
inductive RoundTies where
  | even | away
  deriving DecidableEq, Repr

/-- The configuration record of rule R8: fixed at construction, never changed at run time. -/
structure Config where
  /-- `N` = CHANNEL_COUNT -/
  channelCount : Nat
  /-- `M` = MAX_CHANNELS -/
  maxChannels : Nat
  /-- `LOW_LIMIT`, microseconds -/
  lowLimit : Nat
  /-- `SYNC_MIN`, microseconds -/
  syncMin : Nat
  /-- `VALUE_SEL` -/
  valueSel : ValueSel
  /-- `DE` = EDGE_FIFO_DEPTH -/
  edgeDepth : Nat
  /-- `DF` = FRAME_FIFO_DEPTH -/
  frameDepth : Nat
  /-- `S` = DEC_SCALE -/
  decScale : Nat
  /-- `ROUND_TIES` -/
  roundTies : RoundTies
  /-- `PRESCALE_MIN` -/
  prescaleMin : Nat
  /-- `PRESCALE_MAX` -/
  prescaleMax : Nat
  /-- `H`, the number of host agents: a parameter of the model, not of the hardware (R16, 92_eei_decisions.md D47) -/
  hosts : Nat
  deriving DecidableEq, Repr

/-- `TICKS`: ticks per PWM cycle, fixed (R8, R235). It is also the "always" sentinel (R233). -/
abbrev Config.ticks : Nat := 4096

/-- The legal values of rule R8's table, and H >= 1 (R16). Any other configuration "names no hardware" (R9). -/
abbrev Config.legal (c : Config) : Prop :=
  (1 ≤ c.channelCount ∧ c.channelCount ≤ 256) ∧ (1 ≤ c.maxChannels ∧ c.maxChannels ≤ 256) ∧
  (c.lowLimit < c.syncMin ∧ c.syncMin ≤ 2 ^ 31 - 1) ∧
  (1 ≤ c.edgeDepth ∧ c.edgeDepth ≤ 2 ^ 16) ∧ (1 ≤ c.frameDepth ∧ c.frameDepth ≤ 2 ^ 16) ∧
  c.decScale ≤ 18 ∧ (c.prescaleMin ≤ c.prescaleMax ∧ c.prescaleMax ≤ 255) ∧ 1 ≤ c.hosts

/-- This block's values (R8). `hosts` is the model's choice: DESIGN CHOICE, safe, log 2. -/
def Config.block : Config where
  channelCount := 8
  maxChannels := 8
  lowLimit := 600
  syncMin := 4000
  valueSel := .high
  edgeDepth := 16
  frameDepth := 4
  decScale := 9
  roundTies := .even
  prescaleMin := 0
  prescaleMax := 255
  hosts := 2

/-- The free value of the model: which step the environment takes at position `n`, when State's own list of choices is empty.
The spec leaves the interleaving, the synchronizers' draws, the edges and the commands open (93_implementation_defined.md I10
to I12; R83). It has no body, so nothing can be proved of it: DESIGN CHOICE, safe, log 3. -/
opaque Config.schedule : Nat → Action

end Sys2Proof
end

