-- ==== Sys2Proof/Machine/State.lean ====
section
/-! DEFINITION. The architectural state (10_state.md rules R32 to R50, R58), the reasons a step can stop, and the reset state. -/

namespace Sys2Proof.Machine

/-- An edge record, 65 bits (R32). -/
structure EdgeRec where
  rising : Bool
  ts : I64
  deriving DecidableEq, Repr

/-- A frame record, 64 + 32 N bits (R44). -/
structure FrameRec where
  ts : I64
  ch : List I32
  deriving DecidableEq, Repr

/-- An asynchronous FIFO: the true queue and the two sides' lagging views (20_memory.md rule R74). -/
structure Fifo (α : Type) where
  /-- the entries, oldest first: `EQ` (R32), `FQ` (R44) -/
  q : List α
  /-- entries the reader side sees: `EQ_RVIS` (R33), `FQ_RVIS` (R45) -/
  rvis : Nat
  /-- free slots the writer side sees: `EQ_WFREE` (R34), `FQ_WFREE` (R45) -/
  wfree : Nat
  deriving DecidableEq, Repr

/-- `ASM_PHASE` (R36). -/
inductive AsmPhase where
  | empty | low | high
  deriving DecidableEq, Repr

/-- The cycle assembler (R36 to R39). -/
structure Asm where
  /-- `ASM_PHASE` -/
  phase : AsmPhase
  /-- `ASM_LT`, the partial cycle's `low_time` -/
  lt : I64
  /-- `ASM_LL`, its `low_length` -/
  ll : I64
  /-- `ASM_HT`, its `high_time` -/
  ht : I64
  deriving DecidableEq, Repr

/-- `DSTATE` (R40). -/
inductive DState where
  | idle | capturing
  deriving DecidableEq, Repr

/-- The frame decoder (R40 to R43). -/
structure Dec where
  /-- `DSTATE` -/
  state : DState
  /-- `CH_IDX`: an index, held in 9 bits (R41; log 14) -/
  chIdx : Nat
  /-- `FB_TS` -/
  fbTs : I64
  /-- `FB_CH[0..M-1]` (R43; log 10) -/
  fbCh : List I32
  deriving DecidableEq, Repr

/-- The ChannelStore's snapshot (R46 to R48). -/
structure Store where
  /-- `SEQ` -/
  seq : U64
  /-- `PUB_TS` -/
  pubTs : I64
  /-- `PUB_CH[0..N-1]` (R48; log 10) -/
  pubCh : List I32
  deriving DecidableEq, Repr

/-- The six diagnostic counters (R50). -/
structure Counters where
  /-- `NOISE_CNT` -/
  noise : U32
  /-- `OVF_CNT` -/
  ovf : U32
  /-- `EDGE_DROP_CNT` -/
  edgeDrop : U32
  /-- `FRAME_DROP_CNT` -/
  frameDrop : U32
  /-- `ASM_ERR_CNT` -/
  asmErr : U32
  /-- `FRAME_CNT` -/
  frame : U32
  deriving DecidableEq, Repr

/-- An entry of `HIST` (R57, R58). -/
inductive Event where
  | frameEvt (seq : U64) (ts : I64)
  | ovfEvt (ts : I64)
  | resetEvt
  deriving DecidableEq, Repr

/-- The status codes a response can carry (60_exceptions.md rule R301); codes 7 to 15 are never produced. -/
inductive Status where
  | ok | errIllegalOp | errArgRange | errFreqNonpos | errClockNonpos | errPrescaleRange | errOverflow
  deriving DecidableEq, Repr

/-- A command's response (30_encoding.md rule R104). -/
structure Response where
  status : Status
  r0 : U64
  r1 : U64
  /-- channel i of CH, N of them -/
  ch : List I32
  deriving DecidableEq, Repr

/-- The machine: the spec's state (R59), then the model's own four fields. -/
structure State where
  /-- the parameter record every rule reads (R8); no step writes it (log 1) -/
  cfg : Config
  /-- the edge FIFO `EQ`, `EQ_RVIS`, `EQ_WFREE` -/
  edge : Fifo EdgeRec
  /-- the cycle assembler -/
  asm : Asm
  /-- the frame decoder -/
  dec : Dec
  /-- the frame FIFO `FQ`, `FQ_RVIS`, `FQ_WFREE` -/
  frame : Fifo FrameRec
  /-- the ChannelStore -/
  store : Store
  /-- `STOPPED` (R49) -/
  stopped : Bool
  /-- the diagnostic counters -/
  cnt : Counters
  /-- `HIST` (R58) -/
  hist : List Event
  /-- the response port: the response of the last step, if that step was a host command (log 6) -/
  rsp : Option Response
  /-- the environment's next choices, first one next (log 3) -/
  pending : List Action
  /-- the position in `Config.schedule`, read when `pending` is empty (log 3) -/
  tick : Nat
  deriving DecidableEq, Repr

/-- The block raises no fault: "NAVIO-CPPM takes no traps" (R300), and every condition of the pipeline is recovered locally
(R305). So this type has no constructor, and no step can end in a fault. -/
inductive Fault where
  deriving DecidableEq, Repr

/-- Why a step is refused. -/
inductive Refusal where
  /-- raised by `exec` for an instruction that has no meaning in this model; safe. No arm raises it. -/
  | notModelled (mnemonic : String)
  /-- raised by `step` when the parameters lie outside rule R8's table, which "names no hardware; a model refuses it" (R9); safe -/
  | illegalConfig
  deriving DecidableEq, Repr

/-- The reset values of rules R32 to R50 for a configuration, with `HIST` empty: the state at power-on (R331). -/
def State.powerOn (cfg : Config) : State where
  cfg := cfg
  edge := { q := [], rvis := 0, wfree := cfg.edgeDepth }
  asm := { phase := .empty, lt := 0, ll := 0, ht := 0 }
  dec := { state := .idle, chIdx := 0, fbTs := 0, fbCh := List.replicate cfg.maxChannels 0 }
  frame := { q := [], rvis := 0, wfree := cfg.frameDepth }
  store := { seq := 0, pubTs := 0, pubCh := List.replicate cfg.channelCount 0 }
  stopped := false
  cnt := { noise := 0, ovf := 0, edgeDrop := 0, frameDrop := 0, asmErr := 0, frame := 0 }
  hist := []
  rsp := none
  pending := []
  tick := 0

/-- This block right after power-on (R59, R331). -/
def State.reset : State := State.powerOn Config.block

end Sys2Proof.Machine
end

