-- ==== Sys2Proof/Machine/Ops.lean ====
section
/-! DEFINITION. The operations every family shares: wrapping arithmetic (00_scope.md rule R13), the FIFO operations of both
FIFOs (20_memory.md rules R74, R75), `emit` and `respond` (R14), the counters (R50) and RESET's writes (R330).
There is no exception entry and no return from one to write here: "Trap entry: none exists" (60_exceptions.md rules R300, R312, R313). -/

namespace Sys2Proof.Machine

/-- A step of the machine as its meanings write it. -/
abbrev Result := Host.Outcome State Fault Refusal

/-! ### Arithmetic (R13) -/

/-- `a -64 b` -/
def sub64 (a b : I64) : I64 := a - b

/-- `a +64 b` -/
def add64 (a b : I64) : I64 := a + b

/-- `trunc32`: the low 32 bits read as i32. -/
def trunc32 (v : I64) : I32 := v.setWidth 32

/-! ### Events and responses (R14) -/

/-- `emit EV(args)`: appends an event to `HIST` (R58). -/
def State.emit (ev : Event) (s : State) : State := { s with hist := s.hist ++ [ev] }

/-- `respond(status, r0, r1, ch)` puts a command's response on the response port, in the command's own step (R104). -/
def State.respond (r : Response) (s : State) : State := { s with rsp := some r }

/-- CH of a response to any command but READ_CHANNELS: N zeros (R104). -/
def noCh (s : State) : List I32 := List.replicate s.cfg.channelCount 0

/-- STATUS, R0 and R1 of a response, which is all a codec command computes. -/
structure Answer where
  status : Status
  r0 : U64
  r1 : U64
  deriving DecidableEq, Repr

/-- The answer of a command that succeeds; results are zero-extended (R108). -/
def Answer.ok (r0 r1 : Nat) : Answer := ⟨.ok, BitVec.ofNat 64 r0, BitVec.ofNat 64 r1⟩

/-- The answer of a command that fails: R0 and R1 are 0 (R104, R304). -/
def Answer.err (st : Status) : Answer := ⟨st, 0, 0⟩

/-- A host command's step: its answer, CH all zero, and no other change (R104, R232, R304). -/
def answer (a : Answer) (s : State) : Result := .next (s.respond ⟨a.status, a.r0, a.r1, noCh s⟩)

/-- The 4-bit STATUS code (R301). -/
def Status.code : Status → BitVec 4
  | .ok => 0
  | .errIllegalOp => 1
  | .errArgRange => 2
  | .errFreqNonpos => 3
  | .errClockNonpos => 4
  | .errPrescaleRange => 5
  | .errOverflow => 6

/-- The CH field as one value: channel i in bits 32i+31 : 32i (R104). -/
def chBits : List I32 → Nat
  | [] => 0
  | c :: cs => c.toNat + 2 ^ 32 * chBits cs

/-! ### The asynchronous FIFOs (R74, R75) -/

/-- A push, if the writer's view has a free slot; `none` is a refused push, which "leaves the FIFO unchanged" (R75). -/
def Fifo.push {α : Type} (e : α) (f : Fifo α) : Option (Fifo α) :=
  if f.wfree = 0 then none else some { f with q := f.q ++ [e], wfree := f.wfree - 1 }

/-- A pop of the oldest entry, if the reader's view shows one (R75, R77). The case of a view above an empty queue, which
R35 rules out, has no pop (log 11). -/
def Fifo.pop {α : Type} (f : Fifo α) : Option (α × Fifo α) :=
  if f.rvis = 0 then none
  else match f.q with
    | [] => none
    | e :: q => some (e, { f with q := q, rvis := f.rvis - 1 })

/-- The write-to-read synchronizer with the draw `k`, if `RVIS ≤ k ≤ |Q|` (R134, R200). -/
def Fifo.syncW2R {α : Type} (k : Nat) (f : Fifo α) : Option (Fifo α) :=
  if f.rvis ≤ k ∧ k ≤ f.q.length then some { f with rvis := k } else none

/-- The read-to-write synchronizer with the draw `k`, if `WFREE ≤ k ≤ depth − |Q|` (R135, R201). -/
def Fifo.syncR2W {α : Type} (depth k : Nat) (f : Fifo α) : Option (Fifo α) :=
  if f.wfree ≤ k ∧ k + f.q.length ≤ depth then some { f with wfree := k } else none

/-! ### Updates of one element -/

def State.setEdge (f : Fifo EdgeRec) (s : State) : State := { s with edge := f }

def State.setFrame (f : Fifo FrameRec) (s : State) : State := { s with frame := f }

def State.setAsm (a : Asm) (s : State) : State := { s with asm := a }

def State.setDec (d : Dec) (s : State) : State := { s with dec := d }

def State.setStore (st : Store) (s : State) : State := { s with store := st }

def State.setStopped (s : State) : State := { s with stopped := true }

def State.setCnt (c : Counters) (s : State) : State := { s with cnt := c }

/-! ### The counters, modulo 2^32 (R50) -/

def Counters.incNoise (c : Counters) : Counters := { c with noise := c.noise + 1 }

def Counters.incOvf (c : Counters) : Counters := { c with ovf := c.ovf + 1 }

def Counters.incEdgeDrop (c : Counters) : Counters := { c with edgeDrop := c.edgeDrop + 1 }

def Counters.incFrameDrop (c : Counters) : Counters := { c with frameDrop := c.frameDrop + 1 }

def Counters.incAsmErr (c : Counters) : Counters := { c with asmErr := c.asmErr + 1 }

def Counters.incFrame (c : Counters) : Counters := { c with frame := c.frame + 1 }

/-! ### Reset (R330) -/

/-- Every state element of R32 to R50 at its reset value; `HIST` and the parameters stay (R330). The model's own fields are
the environment's and the ports', which the pin does not touch (log 15). -/
def State.clear (s : State) : State :=
  { State.powerOn s.cfg with hist := s.hist, rsp := s.rsp, pending := s.pending, tick := s.tick }

end Sys2Proof.Machine
end

