-- ==== Sys2Proof/Machine/Assembler.lean ====
section
/-! DEFINITION. The cycle assembler (41_cycle_assembler.md rules R150 to R158): one definition per phase and polarity. -/

namespace Sys2Proof.Machine

/-- The cycle record (R150). -/
structure CycleRec where
  lowTime : I64
  lowLength : I64
  highTime : I64
  highLength : I64
  deriving DecidableEq, Repr

/-- The derived value `length` (R150). -/
def CycleRec.length (c : CycleRec) : I64 := add64 c.lowLength c.highLength

/-- EMPTY, falling edge: a cycle opens (R151). -/
def asmEmptyFall (t : I64) (s : State) : State := s.setAsm { s.asm with lt := t, phase := .low }

/-- EMPTY, rising edge: discarded, uncounted (R152). -/
def asmEmptyRise (s : State) : State := s

/-- LOW, falling edge: a rising edge is missing; the cycle restarts here (R153). -/
def asmLowFall (t : I64) (s : State) : State := (s.setAsm { s.asm with lt := t }).setCnt s.cnt.incAsmErr

/-- LOW, rising edge: the low half completes (R154). -/
def asmLowRise (t : I64) (s : State) : State :=
  s.setAsm { s.asm with ll := sub64 t s.asm.lt, ht := t, phase := .high }

/-- HIGH, rising edge: a falling edge is missing; wait for the next one (R155). -/
def asmHighRise (s : State) : State := (s.setAsm { s.asm with phase := .empty }).setCnt s.cnt.incAsmErr

/-- HIGH, falling edge: the cycle that completes (R156). -/
def asmCycle (t : I64) (a : Asm) : CycleRec := ⟨a.lt, a.ll, a.ht, sub64 t a.ht⟩

/-- HIGH, falling edge: the same edge opens the next cycle (R156). -/
def asmHighFall (t : I64) (s : State) : State := s.setAsm { s.asm with lt := t, phase := .low }

/-- `ASM_STEP(e)`: the phase and the polarity select exactly one of R151 to R156; a cycle is returned by R156 alone. -/
def asmStep (e : EdgeRec) (s : State) : State × Option CycleRec :=
  match s.asm.phase, e.rising with
  | .empty, false => (asmEmptyFall e.ts s, none)
  | .empty, true => (asmEmptyRise s, none)
  | .low, false => (asmLowFall e.ts s, none)
  | .low, true => (asmLowRise e.ts s, none)
  | .high, true => (asmHighRise s, none)
  | .high, false => (asmHighFall e.ts s, some (asmCycle e.ts s.asm))

end Sys2Proof.Machine
end

