-- ==== Sys2Proof/Machine/Decoder.lean ====
section
/-! DEFINITION. The CPPM frame decoder and the DECODE step (42_cppm_decoder.md rules R170 to R184). -/

namespace Sys2Proof.Machine

/-- R172's condition, with signed comparisons (R171). -/
def isNoise (cfg : Config) (c : CycleRec) : Bool :=
  (cfg.lowLimit : Int) ≤ c.lowLength.toInt || c.highLength.toInt ≤ (cfg.lowLimit : Int)

/-- R173's own condition, tested after R172's. -/
def isSync (cfg : Config) (c : CycleRec) : Bool := (cfg.syncMin : Int) ≤ c.highLength.toInt

/-- Every move to IDLE sets CH_IDX to 0 and keeps the frame buffer (R172, R176, R177). -/
def Dec.toIdle (d : Dec) : Dec := { d with state := .idle, chIdx := 0 }

/-- NOISE(c): reject and desynchronize (R172). -/
def noise (s : State) : State := (s.setDec s.dec.toIdle).setCnt s.cnt.incNoise

/-- SYNC(c): a new empty frame stamped with the sync cycle's `low_time` (R173). -/
def sync (c : CycleRec) (s : State) : State :=
  s.setDec { state := .capturing, chIdx := 0, fbTs := c.lowTime, fbCh := List.replicate s.cfg.maxChannels 0 }

/-- IGNORE(c): a cycle while idle (R174). -/
def ignore (s : State) : State := s

/-- `CHVAL(c)` (R179). -/
def chval (cfg : Config) (c : CycleRec) : I64 :=
  match cfg.valueSel with
  | .high => c.highLength
  | .length => c.length

/-- FRAME_PUSH(f): queued, or dropped and counted; DEC never waits (R178). -/
def framePush (f : FrameRec) (s : State) : State :=
  match s.frame.push f with
  | none => s.setCnt s.cnt.incFrameDrop
  | some q => s.setFrame q

/-- OVERFLOW(): the frame is dropped, counted and announced (R176). -/
def overflow (s : State) : State :=
  ((s.setCnt s.cnt.incOvf).emit (.ovfEvt s.dec.fbTs)).setDec s.dec.toIdle

/-- COMPLETE(): counted, handed to the frame FIFO, and back to IDLE (R177). -/
def complete (s : State) : State :=
  (framePush ⟨s.dec.fbTs, s.dec.fbCh.take s.cfg.channelCount⟩ (s.setCnt s.cnt.incFrame)).setDec s.dec.toIdle

/-- The store of CAPTURE: `FB_CH[i] <- v` (R175). -/
def captureStore (v : I32) (s : State) : State := s.setDec { s.dec with fbCh := s.dec.fbCh.set s.dec.chIdx v }

/-- CAPTURE(c) (R175). -/
def capture (c : CycleRec) (s : State) : State :=
  if s.cfg.maxChannels ≤ s.dec.chIdx then overflow s
  else
    let s' := captureStore (trunc32 (chval s.cfg c)) s
    if s.dec.chIdx = s.cfg.channelCount - 1 then complete s'
    else s'.setDec { s'.dec with chIdx := s.dec.chIdx + 1 }

/-- `DEC_STEP(c)`: noise first, then sync, then idle, then capture (R171). -/
def decStep (c : CycleRec) (s : State) : State :=
  if isNoise s.cfg c then noise s
  else if isSync s.cfg c then sync c s
  else match s.dec.state with
    | .idle => ignore s
    | .capturing => capture c s

/-- The assembler and, if it returns a cycle, the decoder, on one popped edge (R170). -/
def consumeEdge (e : EdgeRec) (s : State) : State :=
  match asmStep e s with
  | (s', none) => s'
  | (s', some c) => decStep c s'

/-- DECODE: no step while stopped or while the reader's view is empty (R170, R184). -/
def decodeStep (s : State) : Option State :=
  if s.stopped then none
  else (s.edge.pop).map fun p => consumeEdge p.1 (s.setEdge p.2)

end Sys2Proof.Machine
end

