-- ==== Sys2Proof/Machine/Operands.lean ====
section
/-! DEFINITION. The operands of the commands: their checks (30_encoding.md rule R106, 44_codec.md rule R234) and the codec's
exact arithmetic with one rounding (00_scope.md rule R13, 44_codec.md rules R230, R231). -/

namespace Sys2Proof.Machine

/-- The largest value of a 64-bit result field (R301's ERR_OVERFLOW). -/
abbrev max64 : Nat := 2 ^ 64 - 1

/-- A tick, width, on or off operand above 4096 is out of range (R106). The whole 64-bit value is checked (R107). -/
def tickOutOfRange (v : U64) : Bool := Config.ticks < v.toNat

/-- A delay above 4095 is out of range (R106; 90_conflicts.md C9). -/
def delayOutOfRange (v : U64) : Bool := Config.ticks - 1 < v.toNat

/-- A prescale outside PRESCALE_MIN .. PRESCALE_MAX (R106, R246); an `Int`, since a computed prescale may be -1. -/
def prescaleOutOfRange (c : Config) (p : Int) : Bool := p < c.prescaleMin || (c.prescaleMax : Int) < p

/-- A status index above 18 (R271). -/
def indexOutOfRange (v : U64) : Bool := 18 < v.toNat

/-- `RoundNearest(num / den)` for `den > 0`: the nearest integer, a tie by `ROUND_TIES` (R13). -/
def roundNearest (ties : RoundTies) (num den : Nat) : Nat :=
  let q := num / den
  let r := num % den
  if 2 * r < den then q
  else if den < 2 * r then q + 1
  else match ties with
    | .even => if q % 2 = 0 then q else q + 1
    | .away => q + 1

/-- `10^S`, the scale of a Dec64 value (R230). -/
def dec64Scale (c : Config) : Nat := 10 ^ c.decScale

/-- `MS_TO_TICKS(m_q, f_q)`, an unbounded integer (R241). -/
def msToTicks (c : Config) (mq fq : Nat) : Nat :=
  roundNearest c.roundTies (mq * Config.ticks * fq) (1000 * 10 ^ (2 * c.decScale))

end Sys2Proof.Machine
end

