-- ==== Sys2Proof/Machine/Codec.lean ====
section
/-! DEFINITION. The PWM tick/width codec (44_codec.md rules R230 to R248). Each command is a pure function of its operands and the
parameters (R232); its meaning puts that function's answer on the response port. -/

namespace Sys2Proof.Machine

/-- The width of a pulse from its on and off ticks; always-off is tested before always-on (R236, R237). -/
def widthTicks (on off : Nat) : Nat :=
  if Config.ticks - 1 < off then 0
  else if Config.ticks - 1 < on then Config.ticks - 1
  else if on ≤ off then off - on
  else (Config.ticks + off) - on

/-- WIDTH (R236). -/
def widthAnswer (on off : U64) : Answer :=
  if tickOutOfRange on then .err .errArgRange
  else if tickOutOfRange off then .err .errArgRange
  else .ok (widthTicks on.toNat off.toNat) 0

/-- The on and off ticks of a width and a delay (R238). -/
def onOffTicks (w d : Nat) : Nat × Nat :=
  if Config.ticks - 1 ≤ w then (Config.ticks, 0)
  else if w = 0 then (0, Config.ticks)
  else (d, if Config.ticks - 1 < d + w then d + w - Config.ticks else d + w)

/-- FROM_WIDTH (R238). -/
def fromWidthAnswer (width delay : U64) : Answer :=
  if tickOutOfRange width then .err .errArgRange
  else if delayOutOfRange delay then .err .errArgRange
  else .ok (onOffTicks width.toNat delay.toNat).1 (onOffTicks width.toNat delay.toNat).2

/-- The exact quotient of WIDTH_TO_MS, rounded once (R240, R231). -/
def widthMsQ (cfg : Config) (freq ticks : Nat) : Nat :=
  roundNearest cfg.roundTies (ticks * 1000 * 10 ^ (2 * cfg.decScale)) (Config.ticks * freq)

/-- WIDTH_TO_MS (R240). -/
def widthToMsAnswer (cfg : Config) (freq ticks : U64) : Answer :=
  if freq = 0 then .err .errFreqNonpos
  else if tickOutOfRange ticks then .err .errArgRange
  else if max64 < widthMsQ cfg freq.toNat ticks.toNat then .err .errOverflow
  else .ok (widthMsQ cfg freq.toNat ticks.toNat) 0

/-- FROM_WIDTH_MS: the converted width is checked before the converted delay (R242, R241). -/
def fromWidthMsAnswer (cfg : Config) (widthMs freq delayMs : U64) : Answer :=
  let wt := msToTicks cfg widthMs.toNat freq.toNat
  let dt := msToTicks cfg delayMs.toNat freq.toNat
  if freq = 0 then .err .errFreqNonpos
  else if Config.ticks < wt then .err .errArgRange
  else if Config.ticks - 1 < dt then .err .errArgRange
  else .ok (onOffTicks wt dt).1 (onOffTicks wt dt).2

/-- The exact quotient of FREQ_FROM_PRESCALE, rounded once (R244, R231). -/
def freqQ (cfg : Config) (prescale clock : Nat) : Nat :=
  roundNearest cfg.roundTies (clock * dec64Scale cfg) (Config.ticks * (prescale + 1))

/-- FREQ_FROM_PRESCALE (R244). -/
def freqFromPrescaleAnswer (cfg : Config) (prescale clock : U64) : Answer :=
  if prescaleOutOfRange cfg prescale.toNat then .err .errPrescaleRange
  else if clock = 0 then .err .errClockNonpos
  else if max64 < freqQ cfg prescale.toNat clock.toNat then .err .errOverflow
  else .ok (freqQ cfg prescale.toNat clock.toNat) 0

/-- The prescale closest to a frequency, an integer that may be -1 (R246). -/
def prescaleOf (cfg : Config) (freq clock : Nat) : Int :=
  (roundNearest cfg.roundTies (clock * dec64Scale cfg) (Config.ticks * freq) : Int) - 1

/-- PRESCALE_FROM_FREQ: out of range is an error, never clamped (R246). -/
def prescaleFromFreqAnswer (cfg : Config) (freq clock : U64) : Answer :=
  if freq = 0 then .err .errFreqNonpos
  else if clock = 0 then .err .errClockNonpos
  else if prescaleOutOfRange cfg (prescaleOf cfg freq.toNat clock.toNat) then .err .errPrescaleRange
  else .ok (prescaleOf cfg freq.toNat clock.toNat).toNat 0

def execWidth (on off : U64) (s : State) : Result := answer (widthAnswer on off) s

def execFromWidth (width delay : U64) (s : State) : Result := answer (fromWidthAnswer width delay) s

def execWidthToMs (freq ticks : U64) (s : State) : Result := answer (widthToMsAnswer s.cfg freq ticks) s

def execFromWidthMs (widthMs freq delayMs : U64) (s : State) : Result :=
  answer (fromWidthMsAnswer s.cfg widthMs freq delayMs) s

def execFreqFromPrescale (prescale clock : U64) (s : State) : Result :=
  answer (freqFromPrescaleAnswer s.cfg prescale clock) s

def execPrescaleFromFreq (freq clock : U64) (s : State) : Result :=
  answer (prescaleFromFreqAnswer s.cfg freq clock) s

end Sys2Proof.Machine
end

