-- ==== Sys2Proof/Machine/Flags.lean ====
section
/-! DEFINITION. The block has no condition codes (10_state.md rule R51). Its persistent flags are STOPPED and DSTATE; this file
computes the STATE word that shows them and the status index space of READ_STATUS (45_control.md rules R272, R273). -/

namespace Sys2Proof.Machine

/-- The encoding of ASM_PHASE (R36); 3 is never produced. -/
def AsmPhase.code : AsmPhase → BitVec 2
  | .empty => 0
  | .low => 1
  | .high => 2

/-- The encoding of DSTATE (R40). -/
def DState.code : DState → BitVec 1
  | .idle => 0
  | .capturing => 1

/-- The encoding of VALUE_SEL (R272, index 12). -/
def valueSelCode : ValueSel → Nat
  | .high => 0
  | .length => 1

/-- The encoding of ROUND_TIES (R272, index 16). -/
def roundTiesCode : RoundTies → Nat
  | .even => 0
  | .away => 1

/-- The STATE word: bits 63:17 zero, CH_IDX 16:8, bits 7:4 zero, ASM_PHASE 3:2, DSTATE 1, STOPPED 0 (R273; log 14). -/
def stateWord (s : State) : U64 :=
  (0 : BitVec 47) ++ BitVec.ofNat 9 s.dec.chIdx ++ (0 : BitVec 4) ++ s.asm.phase.code ++ s.dec.state.code ++ BitVec.ofBool s.stopped

/-- `STATUS_VALUE(i)`, zero-extended to 64 bits, for i in 0..18 (R272). -/
def statusValue (s : State) : Nat → U64
  | 0 => s.cnt.noise.setWidth 64
  | 1 => s.cnt.ovf.setWidth 64
  | 2 => s.cnt.edgeDrop.setWidth 64
  | 3 => s.cnt.frameDrop.setWidth 64
  | 4 => s.cnt.asmErr.setWidth 64
  | 5 => s.cnt.frame.setWidth 64
  | 6 => stateWord s
  | 7 => s.store.seq
  | 8 => BitVec.ofNat 64 s.cfg.channelCount
  | 9 => BitVec.ofNat 64 s.cfg.maxChannels
  | 10 => BitVec.ofNat 64 s.cfg.lowLimit
  | 11 => BitVec.ofNat 64 s.cfg.syncMin
  | 12 => BitVec.ofNat 64 (valueSelCode s.cfg.valueSel)
  | 13 => BitVec.ofNat 64 s.cfg.edgeDepth
  | 14 => BitVec.ofNat 64 s.cfg.frameDepth
  | 15 => BitVec.ofNat 64 s.cfg.decScale
  | 16 => BitVec.ofNat 64 (roundTiesCode s.cfg.roundTies)
  | 17 => BitVec.ofNat 64 s.cfg.prescaleMin
  | 18 => BitVec.ofNat 64 s.cfg.prescaleMax
  | _ => 0

end Sys2Proof.Machine
end

