-- ==== Sys2Proof/Machine/Control.lean ====
section
/-! DEFINITION. STOP, READ_STATUS, the illegal command words (45_control.md rules R270 to R277) and RESET
(70_reset_and_hazards.md rule R330). -/

namespace Sys2Proof.Machine

/-- STOP: sets STOPPED, idempotent, always OK (R270). -/
def execStop (s : State) : Result := answer (.ok 0 0) s.setStopped

/-- READ_STATUS (R271). -/
def execReadStatus (index : U64) (s : State) : Result :=
  if indexOutOfRange index then answer (.err .errArgRange) s
  else answer ⟨.ok, statusValue s index.toNat, 0⟩ s

/-- ILLEGAL: ERR_ILLEGAL_OP and no other effect; operands are not examined (R275). -/
def illegal (s : State) : Result := answer (.err .errIllegalOp) s

def execIllegalOp0 (_rsvd : BitVec 28) (s : State) : Result := illegal s

def execIllegalOp7 (_rsvd : BitVec 28) (s : State) : Result := illegal s

def execIllegalOpB (_rsvd : BitVec 28) (s : State) : Result := illegal s

def execIllegalOpC (_rsvd : BitVec 28) (s : State) : Result := illegal s

def execIllegalOpD (_rsvd : BitVec 28) (s : State) : Result := illegal s

def execIllegalOpE (_rsvd : BitVec 28) (s : State) : Result := illegal s

def execIllegalOpF (_rsvd : BitVec 28) (s : State) : Result := illegal s

def execIllegalRsvd (_op : BitVec 4) (_rsvd : BitVec 28) (s : State) : Result := illegal s

/-- RESET: every element at its reset value, then RESET_EVT (R330). -/
def execReset (s : State) : Result := .next (s.clear.emit .resetEvt)

end Sys2Proof.Machine
end

