-- ==== Sys2Proof/Machine/Ingest.lean ====
section
/-! DEFINITION. Edge ingest and the edge FIFO's synchronizers (40_edge_ingest.md rules R130 to R138). -/

namespace Sys2Proof.Machine

/-- EDGE(r, t): nothing while stopped (R132); dropped and counted when the writer's view is full; else queued (R130). The
timestamp is not checked (R131). -/
def execEdge (rising : Bool) (ts : I64) (s : State) : Result :=
  if s.stopped then .next s
  else match s.edge.push ⟨rising, ts⟩ with
    | none => .next (s.setCnt s.cnt.incEdgeDrop)
    | some f => .next (s.setEdge f)

/-- ESYNC_W2R(k), enabled in every state for a legal draw (R134). -/
def esyncW2R (k : Nat) (s : State) : Option State := (s.edge.syncW2R k).map fun f => s.setEdge f

/-- ESYNC_R2W(k), enabled in every state for a legal draw (R135). -/
def esyncR2W (k : Nat) (s : State) : Option State := (s.edge.syncR2W s.cfg.edgeDepth k).map fun f => s.setEdge f

end Sys2Proof.Machine
end

