-- ==== Sys2Proof/Machine/Store.lean ====
section
/-! DEFINITION. The frame FIFO's synchronizers, DISPATCH, the ChannelStore and READ_CHANNELS (43_frame_dispatch.md rules R200 to
R213). -/

namespace Sys2Proof.Machine

/-- FSYNC_W2R(k), enabled in every state for a legal draw (R200). -/
def fsyncW2R (k : Nat) (s : State) : Option State := (s.frame.syncW2R k).map fun f => s.setFrame f

/-- FSYNC_R2W(k), enabled in every state for a legal draw (R201). -/
def fsyncR2W (k : Nat) (s : State) : Option State := (s.frame.syncR2W s.cfg.frameDepth k).map fun f => s.setFrame f

/-- PUBLISH(f): the whole snapshot in one step, then FRAME_EVT with the new SEQ (R206). -/
def publish (f : FrameRec) (s : State) : State :=
  (s.setStore ⟨s.store.seq + 1, f.ts, f.ch⟩).emit (.frameEvt (s.store.seq + 1) f.ts)

/-- DISPATCH: no step while stopped or while the reader's view is empty (R205, R210). -/
def dispatchStep (s : State) : Option State :=
  if s.stopped then none
  else (s.frame.pop).map fun p => publish p.1 (s.setFrame p.2)

/-- READ_CHANNELS: the whole snapshot in one response, in every state (R208). -/
def execReadChannels (s : State) : Result :=
  .next (s.respond ⟨.ok, s.store.seq, s.store.pubTs, s.store.pubCh⟩)

end Sys2Proof.Machine
end

