-- ==== Sys2Proof/Machine/Dispatch.lean ====
section
/-! DEFINITION. One arm per row of spec/opcode_table.json. -/

namespace Sys2Proof.Machine

def exec (i : Instr) (s : State) : Host.Outcome State Fault Refusal :=
  match i with
  -- the codec, 44_codec.md
  | .width on off => Sys2Proof.Machine.execWidth on off s
  | .fromWidth width delay => Sys2Proof.Machine.execFromWidth width delay s
  | .widthToMs freq ticks => Sys2Proof.Machine.execWidthToMs freq ticks s
  | .fromWidthMs widthMs freq delayMs => Sys2Proof.Machine.execFromWidthMs widthMs freq delayMs s
  | .freqFromPrescale prescale clock => Sys2Proof.Machine.execFreqFromPrescale prescale clock s
  | .prescaleFromFreq freq clock => Sys2Proof.Machine.execPrescaleFromFreq freq clock s
  -- the ChannelStore and control, 43_frame_dispatch.md and 45_control.md
  | .readChannels => Sys2Proof.Machine.execReadChannels s
  | .readStatus index => Sys2Proof.Machine.execReadStatus index s
  | .stop => Sys2Proof.Machine.execStop s
  -- the illegal command words, 45_control.md rule R275
  | .illegalOp0 rsvd => Sys2Proof.Machine.execIllegalOp0 rsvd s
  | .illegalOp7 rsvd => Sys2Proof.Machine.execIllegalOp7 rsvd s
  | .illegalOpB rsvd => Sys2Proof.Machine.execIllegalOpB rsvd s
  | .illegalOpC rsvd => Sys2Proof.Machine.execIllegalOpC rsvd s
  | .illegalOpD rsvd => Sys2Proof.Machine.execIllegalOpD rsvd s
  | .illegalOpE rsvd => Sys2Proof.Machine.execIllegalOpE rsvd s
  | .illegalOpF rsvd => Sys2Proof.Machine.execIllegalOpF rsvd s
  | .illegalRsvd op rsvd => Sys2Proof.Machine.execIllegalRsvd op rsvd s
  -- the edge port, 40_edge_ingest.md, and the reset pin, 70_reset_and_hazards.md
  | .edge rising ts => Sys2Proof.Machine.execEdge rising ts s
  | .reset => Sys2Proof.Machine.execReset s

end Sys2Proof.Machine
end

