-- ==== Sys2Proof/Machine/Agents.lean ====
section
/-! DEFINITION. The turn of an agent (00_scope.md rules R15, R16): what the environment chooses next, and what the chosen agent
does with it. This is the model's fetch: the block fetches no program (10_state.md rule R31). -/

namespace Sys2Proof.Machine

/-- The environment's next choice: the head of `pending`, else the free value `Config.schedule` at `tick` (R83; log 3). -/
def State.nextAction (s : State) : Action :=
  match s.pending with
  | a :: _ => a
  | [] => Config.schedule s.tick

/-- The state in which the chosen agent takes its turn: the choice is used up, and the response port, which carries a response
in its command's own step only (R104), is empty (log 3, log 6). -/
def State.taken (s : State) : State :=
  match s.pending with
  | _ :: rest => { s with pending := rest, rsp := none }
  | [] => { s with tick := s.tick + 1, rsp := none }

/-- A word on an input port: the machine decodes it and runs the instruction. A word that names no operation (the reset pin at
0) asks for no step (log 9). -/
def runPort (p : PortWord) (s : State) : Result :=
  match decode p with
  | .ok i => exec i s
  | .error _ => .next s

/-- An internal step of an agent, `none` where it is not enabled: "An agent whose step is not enabled simply takes no step"
(60_exceptions.md rule R319; log 4). -/
def runAgent (step? : Option State) (s : State) : Result :=
  match step? with
  | some s' => .next s'
  | none => .next s

/-- The action of a port word: a command is issued by agent `HOST_0`, one of the hosts of every legal configuration. -/
def portAction : PortWord → Action
  | .cmd word a b c => .host 0 word a b c
  | .edge word => .src word
  | .rst pin => .rst pin

/-- The turn of the chosen agent. There is a host `HOST_k` for `k < H` only (R16). -/
def turn (a : Action) (s : State) : Result :=
  match a with
  | .host k word a b c => if k < s.cfg.hosts then runPort (.cmd word a b c) s else .next s
  | .src word => runPort (.edge word) s
  | .rst pin => runPort (.rst pin) s
  | .esyncW2R k => runAgent (esyncW2R k s) s
  | .esyncR2W k => runAgent (esyncR2W k s) s
  | .decode => runAgent (decodeStep s) s
  | .fsyncW2R k => runAgent (fsyncW2R k s) s
  | .fsyncR2W k => runAgent (fsyncR2W k s) s
  | .dispatch => runAgent (dispatchStep s) s

end Sys2Proof.Machine
end

