-- ==== Sys2Proof/Machine/Step.lean ====
section
/-! DEFINITION. One step of the machine, and where a test places its next instruction. -/

namespace Sys2Proof.Machine

/-- One atomic step: the environment's choice and that agent's turn (R15, R83). A configuration outside rule R8's table has no
step (R9). -/
def step (s : State) : Host.Outcome State Fault Refusal :=
  if s.cfg.legal then turn s.nextAction s.taken else .refused .illegalConfig

/-- `s` with the instruction of the opcode table's bits on its port as the next step (log 7). -/
def State.withFetchWord (s : State) (nbits w : Nat) : State :=
  { s with pending := portAction (tableWord nbits w) :: s.pending }

end Sys2Proof.Machine
end

