-- ==== Sys2Proof/Machine/Text.lean ====
section
/-! DEFINITION. The spec's textual form of commands and edges: syntax, literals and the pseudo-instructions that expand to items
(30_encoding.md rules R112 to R114). Lines are lists of characters. -/

namespace Sys2Proof.Machine

/-- A literal (R113): an integer, or a decimal literal `digits / 10^frac`. -/
inductive Literal where
  | int (v : Int)
  | dec (digits frac : Nat)
  deriving DecidableEq, Repr

/-- One item of rule R112, its operands in the order of rule R106. -/
inductive Item where
  | width (on off : Literal)
  | fromWidth (width delay : Literal)
  | widthToMs (freq ticks : Literal)
  | fromWidthMs (widthMs freq delayMs : Literal)
  | freqFromPrescale (prescale clock : Literal)
  | prescaleFromFreq (freq clock : Literal)
  | readChannels
  | readStatus (index : Literal)
  | stop
  | edge (rising : Bool) (ts : Int)
  | reset
  deriving DecidableEq, Repr

/-- A value that fits an unsigned 64-bit operand; any other does not assemble (R113; log 12). -/
def asU64 (v : Int) : Option U64 :=
  if 0 ≤ v ∧ v ≤ (max64 : Int) then some (BitVec.ofInt 64 v) else none

/-- A decimal literal as a Dec64 value, `value × 10^S` exactly (R113). -/
def dec64Literal (cfg : Config) (digits frac : Nat) : Option U64 :=
  if frac ≤ cfg.decScale then asU64 (digits * 10 ^ (cfg.decScale - frac) : Nat) else none

/-- A literal in an integer operand position of a command (R113; log 12). EDGE and CPPM_FRAME take no decimal literal: log 17. -/
def intOperand (cfg : Config) : Literal → Option U64
  | .int v => asU64 v
  | .dec digits frac => dec64Literal cfg digits frac

/-- A literal in a Dec64 operand position: an integer literal is scaled by `10^S` (R113). -/
def dec64Operand (cfg : Config) : Literal → Option U64
  | .int v => asU64 (v * dec64Scale cfg)
  | .dec digits frac => dec64Literal cfg digits frac

/-- A timestamp of EDGE, which may be negative (R113; log 12). -/
def tsOperand (v : Int) : Option I64 :=
  if -(2 ^ 63) ≤ v ∧ v < 2 ^ 63 then some (BitVec.ofInt 64 v) else none

/-- The instruction an item assembles to, if its literals assemble (R112, R113). -/
def assemble (cfg : Config) : Item → Option Instr
  | .width a b => do return .width (← intOperand cfg a) (← intOperand cfg b)
  | .fromWidth a b => do return .fromWidth (← intOperand cfg a) (← intOperand cfg b)
  | .widthToMs a b => do return .widthToMs (← dec64Operand cfg a) (← intOperand cfg b)
  | .fromWidthMs a b c => do return .fromWidthMs (← dec64Operand cfg a) (← dec64Operand cfg b) (← dec64Operand cfg c)
  | .freqFromPrescale a b => do return .freqFromPrescale (← intOperand cfg a) (← intOperand cfg b)
  | .prescaleFromFreq a b => do return .prescaleFromFreq (← dec64Operand cfg a) (← intOperand cfg b)
  | .readChannels => some .readChannels
  | .readStatus a => do return .readStatus (← intOperand cfg a)
  | .stop => some .stop
  | .edge rising ts => do return .edge rising (← tsOperand ts)
  | .reset => some .reset

/-- The port word of an item. -/
def assembleWord (cfg : Config) (i : Item) : Option PortWord := (assemble cfg i).map encode

/-! ### Pseudo-instructions (R114) -/

/-- `FROM_WIDTH <w>` -/
def pseudoFromWidth (w : Literal) : Item := .fromWidth w (.int 0)

/-- `FROM_WIDTH_MS <w>, <f>` -/
def pseudoFromWidthMs (w f : Literal) : Item := .fromWidthMs w f (.dec 0 1)

/-- The channel edges of CPPM_FRAME from the falling edge at `t` on. -/
def cppmChannels (low : Int) : Int → List Int → List Item
  | _, [] => []
  | t, v :: vs => .edge true (t + low) :: .edge false (t + low + v) :: cppmChannels low (t + low + v) vs

/-- `CPPM_FRAME <t0>, <low>, <sync_high>, <v0>, ...` -/
def cppmFrame (t0 low syncHigh : Int) (vs : List Int) : List Item :=
  .edge false t0 :: .edge true (t0 + low) :: .edge false (t0 + low + syncHigh) :: cppmChannels low (t0 + low + syncHigh) vs

/-! ### Reading a line -/

/-- What a line says: nothing, items, or one of the two directives whose expansion depends on the machine (R114). -/
inductive Line where
  | items (is : List Item)
  | setFreq (freq clock : Literal)
  | drain
  deriving DecidableEq, Repr

/-- The words of a line; a space, a tab or a comma separates (log 12), and `;` opens a comment
(log 18). -/
def splitWords : List Char → List Char → List (List Char)
  | w, [] => if w = [] then [] else [w.reverse]
  | w, c :: cs =>
    if c = ';' then (if w = [] then [] else [w.reverse])
    else if c = ' ' ∨ c = '\t' ∨ c = ',' then (if w = [] then splitWords [] cs else w.reverse :: splitWords [] cs)
    else splitWords (c :: w) cs

/-- The value of a digit in a base up to 16; a hexadecimal digit may be of either case (log 18). -/
def digitVal (base : Nat) (c : Char) : Option Nat :=
  let n := c.toNat
  let d := if 48 ≤ n ∧ n ≤ 57 then n - 48 else if 97 ≤ n ∧ n ≤ 102 then n - 87 else if 65 ≤ n ∧ n ≤ 70 then n - 55 else base
  if d < base then some d else none

/-- Digits after a value already read. -/
def digitsFrom (base : Nat) : Nat → List Char → Option Nat
  | acc, [] => some acc
  | acc, c :: cs => match digitVal base c with
    | some d => digitsFrom base (acc * base + d) cs
    | none => none

/-- A non-empty run of digits (log 18). -/
def digits (base : Nat) : List Char → Option Nat
  | [] => none
  | cs => digitsFrom base 0 cs

/-- A literal with no sign: `0x` hexadecimal, decimal, or decimal with a point (R113). A literal with no digit before the point, after
it, or after `0x` is none: R113 gives only forms with digits there and is silent: DESIGN CHOICE, log 18. -/
def unsignedLiteral : List Char → Option Literal
  | '0' :: 'x' :: cs => (digits 16 cs).map fun v => .int v
  | cs => match cs.span (· ≠ '.') with
    | (whole, []) => (digits 10 whole).map fun v => .int v
    | (whole, _ :: fracDigits) =>
      match digits 10 whole, digits 10 fracDigits with
      | some w, some f => some (.dec (w * 10 ^ fracDigits.length + f) fracDigits.length)
      | _, _ => none

/-- A literal; only an integer literal may be negative (R113 lets timestamps be negative, and a Dec64 value never is, R230).
The sign stands before the digits or before `0x`, and there is no `+`: DESIGN CHOICE, log 18. -/
def literal : List Char → Option Literal
  | '-' :: cs => match unsignedLiteral cs with
    | some (.int v) => some (.int (-v))
    | _ => none
  | cs => unsignedLiteral cs

/-- The integers among literals, if all are: an operand of CPPM_FRAME with a decimal point is no line. R113 says nothing of a decimal
literal in these positions: DESIGN CHOICE, log 17. -/
def integers : List Literal → Option (List Int)
  | [] => some []
  | .int v :: ls => (integers ls).map (v :: ·)
  | .dec _ _ :: _ => none

/-- An EDGE line: `F` or `R`, then the timestamp (R112). A timestamp with a decimal point is no line: R113 says nothing of a decimal
literal in this position: DESIGN CHOICE, log 17. -/
def edgeLine : List (List Char) → Option Line
  | [['F'], ts] => match literal ts with
    | some (.int t) => some (.items [.edge false t])
    | _ => none
  | [['R'], ts] => match literal ts with
    | some (.int t) => some (.items [.edge true t])
    | _ => none
  | _ => none

/-- A line whose operands are all literals (R112, R114). -/
def literalLine (m : List Char) (ls : List Literal) : Option Line :=
  if m = "WIDTH".toList then match ls with
    | [a, b] => some (.items [.width a b])
    | _ => none
  else if m = "FROM_WIDTH".toList then match ls with
    | [a, b] => some (.items [.fromWidth a b])
    | [a] => some (.items [pseudoFromWidth a])
    | _ => none
  else if m = "WIDTH_TO_MS".toList then match ls with
    | [a, b] => some (.items [.widthToMs a b])
    | _ => none
  else if m = "FROM_WIDTH_MS".toList then match ls with
    | [a, b, c] => some (.items [.fromWidthMs a b c])
    | [a, b] => some (.items [pseudoFromWidthMs a b])
    | _ => none
  else if m = "FREQ_FROM_PRESCALE".toList then match ls with
    | [a, b] => some (.items [.freqFromPrescale a b])
    | _ => none
  else if m = "PRESCALE_FROM_FREQ".toList then match ls with
    | [a, b] => some (.items [.prescaleFromFreq a b])
    | _ => none
  else if m = "READ_CHANNELS".toList then (if ls = [] then some (.items [.readChannels]) else none)
  else if m = "READ_STATUS".toList then match ls with
    | [a] => some (.items [.readStatus a])
    | _ => none
  else if m = "STOP".toList then (if ls = [] then some (.items [.stop]) else none)
  else if m = "RESET".toList then (if ls = [] then some (.items [.reset]) else none)
  else if m = "SET_FREQ".toList then match ls with
    | [a, b] => some (.setFreq a b)
    | _ => none
  else if m = "CPPM_FRAME".toList then match integers ls with
    | some (t0 :: low :: syncHigh :: vs) => some (.items (cppmFrame t0 low syncHigh vs))
    | _ => none
  else if m = "DRAIN".toList then (if ls = [] then some .drain else none)
  else none

/-- One line of text (R112: one item per line); an empty line says nothing (log 18). -/
def parseLine (cs : List Char) : Option Line :=
  match splitWords [] cs with
  | [] => some (.items [])
  | m :: ws => if m = "EDGE".toList then edgeLine ws else (ws.mapM literal).bind (literalLine m)

end Sys2Proof.Machine
end

