-- ==== Sys2Proof/Machine/Drain.lean ====
section
/-! DEFINITION. The two pseudo-instructions that depend on the machine (30_encoding.md rule R114): the scheduler directive DRAIN and
the two-command sequence SET_FREQ; and what a line of text does. -/

namespace Sys2Proof.Machine

/-- An internal step if it is enabled, else the state as it is. -/
def orStay (step? : Option State) (s : State) : State := step?.getD s

/-- One round of DRAIN: each synchronizer draws the up-to-date view, DECODE and DISPATCH run if enabled (R114; log 13). -/
def drainRound (s : State) : State :=
  let s := orStay (esyncW2R s.edge.q.length s) s
  let s := orStay (decodeStep s) s
  let s := orStay (esyncR2W (s.cfg.edgeDepth - s.edge.q.length) s) s
  let s := orStay (fsyncW2R s.frame.q.length s) s
  let s := orStay (dispatchStep s) s
  orStay (fsyncR2W (s.cfg.frameDepth - s.frame.q.length) s) s

/-- `n` rounds of DRAIN. -/
def drainRounds : Nat → State → State
  | 0, s => s
  | n + 1, s => drainRounds n (drainRound s)

/-- DRAIN: after `|EQ| + |FQ| + 1` rounds nothing is left that is enabled and would change the state (R114; log 13). -/
def drain (s : State) : State := drainRounds (s.edge.q.length + s.frame.q.length + 1) s

/-! ### SET_FREQ (R114, R247) -/

/-- The first command of SET_FREQ `<f>, <clk>`: PRESCALE_FROM_FREQ `<f>, <clk>` (R114). -/
def setFreqFirst (freq clock : Literal) : Item := .prescaleFromFreq freq clock

/-- The second command of SET_FREQ, given the response to the first: FREQ_FROM_PRESCALE `<R0>, <clk>` if its STATUS is OK
(R114, R247). -/
def setFreqSecond (clock : U64) (r : Response) : Option Instr :=
  if r.status = .ok then some (.freqFromPrescale r.r0 clock) else none

/-- SET_FREQ as one computation: the effective frequency, or the first error (R114, R247). -/
def setFreqAnswer (cfg : Config) (freq clock : U64) : Answer :=
  if (prescaleFromFreqAnswer cfg freq clock).status = .ok then
    freqFromPrescaleAnswer cfg (prescaleFromFreqAnswer cfg freq clock).r0 clock
  else prescaleFromFreqAnswer cfg freq clock

/-! ### Running a line -/

/-- The next state of an instruction's step, if the step has one. -/
def runInstr (i : Instr) (s : State) : Option State :=
  match exec i s with
  | .next t => some t
  | .fault _ | .refused _ => none

/-- One item as a step; `none` where it does not assemble (R113). The response port is empty when the step begins (log 6). -/
def runItem (i : Item) (s : State) : Option State :=
  (assemble s.cfg i).bind fun i => runInstr i { s with rsp := none }

/-- Items as steps, first one first, with no step of another agent between them (log 19). -/
def runItems : List Item → State → Option State
  | [], s => some s
  | i :: is, s => (runItem i s).bind (runItems is)

/-- The end of SET_FREQ, in the state the first command left: the second command if the first answered OK, else nothing more
(R114). -/
def setFreqFinish (clock : U64) (t : State) : Option State :=
  match t.rsp.bind (setFreqSecond clock) with
  | some i => runInstr i { t with rsp := none }
  | none => some t

/-- SET_FREQ as its one or two steps (R114, R247; log 19): the response that stands at the end is the effective frequency, or the
first command's error. -/
def runSetFreq (freq clock : Literal) (s : State) : Option State :=
  match intOperand s.cfg clock with
  | some c => (runItem (setFreqFirst freq clock) s).bind (setFreqFinish c)
  | none => none

/-- What a line does (R112, R114); `none` where one of its literals does not assemble. -/
def runLine (l : Line) (s : State) : Option State :=
  match l with
  | .items is => runItems is s
  | .setFreq freq clock => runSetFreq freq clock s
  | .drain => some (drain s)

end Sys2Proof.Machine
end

