-- ==== Sys2Proof/Safety.lean ====
section
/-! DEFINITION. The terms the claims are stated in: the invariants of 10_state.md (rules R35, R41, R45) and of 42_cppm_decoder.md (R175,
R179), what `RoundNearest` is (R13), runs under a schedule, and the fairness assumptions on them (R136, R183, R202, R213). -/

namespace Sys2Proof.Machine

/-- `s` with a response of STATUS, R0, R1 and an all-zero CH on the response port, and nothing else changed (R104). -/
abbrev State.answered (s : State) (st : Status) (r0 r1 : U64) : State :=
  { s with rsp := some ⟨st, r0, r1, List.replicate s.cfg.channelCount 0⟩ }

/-- A FIFO's views are pessimistic and it is no longer than its depth (R32, R35, R44, R45). -/
abbrev Fifo.Ok {α : Type} (depth : Nat) (f : Fifo α) : Prop :=
  f.rvis ≤ f.q.length ∧ f.wfree + f.q.length ≤ depth

/-- CH_IDX is 0 while IDLE and at most min(N - 1, M) while CAPTURING, and the frame buffer has M elements (R41, R43). -/
abbrev Dec.Ok (cfg : Config) (d : Dec) : Prop :=
  d.fbCh.length = cfg.maxChannels ∧ (d.state = .idle → d.chIdx = 0) ∧
  (d.state = .capturing → d.chIdx ≤ min (cfg.channelCount - 1) cfg.maxChannels)

/-- The invariant of 10_state.md: both FIFOs, the decoder's index, and the length of every array of N channels. -/
structure State.Inv (s : State) : Prop where
  edge : s.edge.Ok s.cfg.edgeDepth
  frame : s.frame.Ok s.cfg.frameDepth
  frameCh : ∀ f ∈ s.frame.q, f.ch.length = s.cfg.channelCount
  dec : s.dec.Ok s.cfg
  pubCh : s.store.pubCh.length = s.cfg.channelCount
  rspCh : ∀ r ∈ s.rsp, r.ch.length = s.cfg.channelCount

/-- A channel value strictly between the two thresholds, as a signed number (R175, R179). -/
abbrev ChannelInRange (cfg : Config) (v : I32) : Prop := (cfg.lowLimit : Int) < v.toInt ∧ v.toInt < (cfg.syncMin : Int)

/-- Every channel captured so far, queued or published is between the thresholds; the snapshot before the first publish is the
reset one (R175, R179, R333). Meant for `VALUE_SEL = HIGH`. -/
structure State.InRange (s : State) : Prop where
  captured : ∀ v ∈ s.dec.fbCh.take s.dec.chIdx, ChannelInRange s.cfg v
  queued : ∀ f ∈ s.frame.q, ∀ v ∈ f.ch, ChannelInRange s.cfg v
  published : s.store.pubCh = List.replicate s.cfg.channelCount 0 ∨ ∀ v ∈ s.store.pubCh, ChannelInRange s.cfg v

/-- `q` is the integer nearest to `num / den`; exactly halfway it is the even one under EVEN, the larger one under AWAY (R13). -/
def IsNearest (ties : RoundTies) (num den q : Nat) : Prop :=
  2 * (q * den) ≤ 2 * num + den ∧ 2 * num ≤ 2 * (q * den) + den ∧
  (2 * num = 2 * (q * den) + den → ties = .even ∧ q % 2 = 0) ∧
  (2 * num + den = 2 * (q * den) → ties = .even → q % 2 = 0)

/-- A sync cycle (R173): not noise, and its high half is at least SYNC_MIN. -/
abbrev IsSyncCycle (cfg : Config) (c : CycleRec) : Prop :=
  c.lowLength.toInt < cfg.lowLimit ∧ (cfg.lowLimit : Int) < c.highLength.toInt ∧ (cfg.syncMin : Int) ≤ c.highLength.toInt

/-- A channel cycle (R174, R175): neither noise nor sync. -/
abbrev IsChannelCycle (cfg : Config) (c : CycleRec) : Prop :=
  c.lowLength.toInt < cfg.lowLimit ∧ (cfg.lowLimit : Int) < c.highLength.toInt ∧ c.highLength.toInt < (cfg.syncMin : Int)

/-- The decoder on a list of cycles, first one first. -/
def decCycles (s : State) (cs : List CycleRec) : State := cs.foldl (fun s c => decStep c s) s

/-- An event is a FRAME_EVT. -/
def Event.isFrame : Event → Bool
  | .frameEvt _ _ => true
  | .ovfEvt _ | .resetEvt => false

/-- An infinite run of a legal block under a schedule of turns: any interleaving of the agents, any edges, commands and draws
(R15, R83, R136). -/
def IsRun (sched : Nat → Action) (σ : Nat → State) : Prop :=
  ∀ n, (σ n).cfg.legal ∧ turn (sched n) (σ n) = .next (σ (n + 1))

/-- Fairness of ESYNC (R136): a length of EQ, or a free space, that stays constant is eventually copied to the other side. -/
def FairEsync (sched : Nat → Action) (σ : Nat → State) : Prop :=
  (∀ v n, (∀ m, n ≤ m → (σ m).edge.q.length = v) → ∃ m, n ≤ m ∧ sched m = .esyncW2R v) ∧
  (∀ w n, (∀ m, n ≤ m → (σ m).cfg.edgeDepth - (σ m).edge.q.length = w) → ∃ m, n ≤ m ∧ sched m = .esyncR2W w)

/-- Fairness of FSYNC (R202). -/
def FairFsync (sched : Nat → Action) (σ : Nat → State) : Prop :=
  (∀ v n, (∀ m, n ≤ m → (σ m).frame.q.length = v) → ∃ m, n ≤ m ∧ sched m = .fsyncW2R v) ∧
  (∀ w n, (∀ m, n ≤ m → (σ m).cfg.frameDepth - (σ m).frame.q.length = w) → ∃ m, n ≤ m ∧ sched m = .fsyncR2W w)

/-- Weak fairness of DEC (R183): DECODE enabled from some point on is taken infinitely often. -/
def FairDec (sched : Nat → Action) (σ : Nat → State) : Prop :=
  ∀ n, (∀ m, n ≤ m → (decodeStep (σ m)).isSome) → ∀ k, ∃ m, k ≤ m ∧ sched m = .decode

/-- Weak fairness of DISP (R213): DISPATCH enabled from some point on is taken infinitely often. -/
def FairDisp (sched : Nat → Action) (σ : Nat → State) : Prop :=
  ∀ n, (∀ m, n ≤ m → (dispatchStep (σ m)).isSome) → ∀ k, ∃ m, k ≤ m ∧ sched m = .dispatch

/-- A run in which every agent makes progress (92_eei_decisions.md D42). -/
structure FairRun (sched : Nat → Action) (σ : Nat → State) : Prop where
  run : IsRun sched σ
  esync : FairEsync sched σ
  dec : FairDec sched σ
  fsync : FairFsync sched σ
  disp : FairDisp sched σ

end Sys2Proof.Machine
end

