-- ==== Sys2Proof/Certificates/Slice0/Obligations.lean ====
section
/-! DEFINITION. The statements for the provers. Each docstring names the rules of spec/ it formalises. Where a statement says
`{ s with … }`, every field it does not name is unchanged: that is its frame. -/

open Sys2Proof Sys2Proof.Machine

/-! ### Encoding -/

/-- The nine legal command words with any operands decode to the commands of R105, each with the operands R106 names for it:
"Each opcode reads the operands rule R106 names for it, in that order, and ignores the others whatever they hold" (R102). -/
def Obligations.CommandWordsDecode : Prop :=
  ∀ a b c : U64,
    decode (.cmd 0x00000001 a b c) = .ok (.width a b) ∧
    decode (.cmd 0x00000002 a b c) = .ok (.fromWidth a b) ∧
    decode (.cmd 0x00000003 a b c) = .ok (.widthToMs a b) ∧
    decode (.cmd 0x00000004 a b c) = .ok (.fromWidthMs a b c) ∧
    decode (.cmd 0x00000005 a b c) = .ok (.freqFromPrescale a b) ∧
    decode (.cmd 0x00000006 a b c) = .ok (.prescaleFromFreq a b) ∧
    decode (.cmd 0x00000008 a b c) = .ok .readChannels ∧
    decode (.cmd 0x00000009 a b c) = .ok (.readStatus a) ∧
    decode (.cmd 0x0000000A a b c) = .ok .stop

/-- Every 65-bit edge word is legal: bit 64 is the polarity, bits 63:0 are the timestamp (R103). -/
def Obligations.EdgeWordsDecode : Prop :=
  (∀ (r : BitVec 1) (ts : I64), decode (.edge (r ++ ts)) = .ok (.edge (r == 1) ts)) ∧
  (∀ w : BitVec 65, ∃ rising ts, decode (.edge w) = .ok (.edge rising ts))

/-- Decoding an encoded well-formed instruction gives it back, with every operand at every value its encoding admits
(30_encoding.md R101, R103, R105, R106, R109). Well-formedness keeps the overlapping rows of the table apart: log 8. -/
def Obligations.DecodeEncodeAgree : Prop :=
  ∀ i : Instr, i.wf = true → decode (encode i) = .ok i

/-- No bit of a command word or an edge word is dropped: encoding what it decodes to gives the same word back (R101, R103,
R109). Operands are R102's, so a command may ignore them. -/
def Obligations.DecodedWordIsRecovered : Prop :=
  (∀ w a b c, ∃ i a' b' c', decode (.cmd w a b c) = .ok i ∧ i.wf = true ∧ encode i = .cmd w a' b' c') ∧
  (∀ w, ∃ i, decode (.edge w) = .ok i ∧ i.wf = true ∧ encode i = .edge w)

/-- Every word with an unassigned OP, or with RSVD not 0, is answered ERR_ILLEGAL_OP in every state, with any operands, and has
no other effect (R275). -/
def Obligations.IllegalWordsAnswerIllegalOp : Prop :=
  ∀ (s : State) (w : BitVec 32) (a b c : U64),
    (w.toNat % 16 ∈ [0x0, 0x7, 0xB, 0xC, 0xD, 0xE, 0xF] ∨ w.toNat / 16 ≠ 0) →
    ∃ i, decode (.cmd w a b c) = .ok i ∧
      exec i s = .next (s.answered .errIllegalOp 0 0)

/-- The eight illegal rows of the opcode table as instructions: each completes in every state, answers ERR_ILLEGAL_OP and changes
nothing else (R275 for the rows of R115). -/
def Obligations.IllegalRowsComplete : Prop :=
  ∀ (s : State) (rsvd : BitVec 28) (op : BitVec 4),
    ∀ i ∈ [Instr.illegalOp0 rsvd, .illegalOp7 rsvd, .illegalOpB rsvd, .illegalOpC rsvd, .illegalOpD rsvd, .illegalOpE rsvd,
      .illegalOpF rsvd, .illegalRsvd op rsvd],
    exec i s = .next (s.answered .errIllegalOp 0 0)

/-- Decimal literals assemble exactly or not at all: `q = value × 10^S`, at most S fraction digits, at most 2^64 - 1 (R113). -/
def Obligations.DecimalLiteralsAreExact : Prop :=
  ∀ (cfg : Config) (digits frac : Nat),
    (frac ≤ cfg.decScale → digits * 10 ^ (cfg.decScale - frac) ≤ 2 ^ 64 - 1 →
      ∃ v, dec64Literal cfg digits frac = some v ∧ v.toNat * 10 ^ frac = digits * 10 ^ cfg.decScale) ∧
    (cfg.decScale < frac → dec64Literal cfg digits frac = none) ∧
    (frac ≤ cfg.decScale → 2 ^ 64 - 1 < digits * 10 ^ (cfg.decScale - frac) → dec64Literal cfg digits frac = none)

/-! ### The step -/

/-- A step runs the decoded instruction: where the environment's next choice is a command of a host that exists, an edge or the
pin, and its word decodes to `i`, the step is `exec i` in the state in which the turn begins (the choice used up, the response
port empty: the model's choice, log 3 and log 6). -/
def Obligations.StepRunsDecodedInstruction : Prop :=
  ∀ (s : State) (i : Instr), s.cfg.legal →
    (∀ k w a b c, s.nextAction = .host k w a b c → k < s.cfg.hosts → decode (.cmd w a b c) = .ok i → step s = exec i s.taken) ∧
    (∀ w, s.nextAction = .src w → decode (.edge w) = .ok i → step s = exec i s.taken) ∧
    (∀ p, s.nextAction = .rst p → decode (.rst p) = .ok i → step s = exec i s.taken)

/-- A configuration outside the legal values is refused, and no step is defined for it (R9). -/
def Obligations.IllegalConfigIsRefused : Prop :=
  ∀ s : State, ¬ s.cfg.legal → step s = .refused .illegalConfig

/-- A legal block always has a next state: nothing traps, faults or blocks, whatever the environment chooses (R300, R182, R276).
That the turn of a disabled agent has a next state too is the model's choice: log 4. -/
def Obligations.LegalBlockAlwaysSteps : Prop :=
  ∀ s : State, s.cfg.legal → ∃ t, step s = .next t

/-- The turn of an agent whose step is not enabled changes nothing. This is the model's choice of what such a turn is (log 4 and
log 5, from R319's "simply takes no step"). -/
def Obligations.DisabledTurnsChangeNothing : Prop :=
  ∀ (s : State) (k : Nat),
    (s.stopped = true ∨ s.edge.rvis = 0 → turn .decode s = .next s) ∧
    (s.stopped = true ∨ s.frame.rvis = 0 → turn .dispatch s = .next s) ∧
    (k < s.edge.rvis ∨ s.edge.q.length < k → turn (.esyncW2R k) s = .next s) ∧
    (k < s.edge.wfree ∨ s.cfg.edgeDepth < k + s.edge.q.length → turn (.esyncR2W k) s = .next s) ∧
    (k < s.frame.rvis ∨ s.frame.q.length < k → turn (.fsyncW2R k) s = .next s) ∧
    (k < s.frame.wfree ∨ s.cfg.frameDepth < k + s.frame.q.length → turn (.fsyncR2W k) s = .next s)

/-- Parameters are "fixed at construction (elaboration) time and never changed at run time" (R8). -/
def Obligations.ParametersNeverChange : Prop :=
  ∀ s t : State, step s = .next t → t.cfg = s.cfg

/-! ### The codec -/

/-- `RoundNearest` is the one integer that is nearest, with R13's tie rule. -/
def Obligations.RoundNearestIsTheNearest : Prop :=
  ∀ (ties : RoundTies) (num den q : Nat), 0 < den → (IsNearest ties num den q ↔ q = roundNearest ties num den)

/-- WIDTH: the range checks, the always-off and always-on cases in that order, and the width of any other pair as a distance
modulo 4096 (R236). -/
def Obligations.WidthResult : Prop :=
  ∀ (s : State) (on off c : U64),
    decode (.cmd 0x00000001 on off c) = .ok (.width on off) ∧
    exec (.width on off) s = .next (
      if 4096 < on.toNat ∨ 4096 < off.toNat then s.answered .errArgRange 0 0
      else s.answered .ok (BitVec.ofNat 64 (
          if off.toNat = 4096 then 0
          else if on.toNat = 4096 then 4095
          else (off.toNat + 4096 - on.toNat) % 4096)) 0)

/-- FROM_WIDTH: the range checks, the two sentinel pairs, and any other pair modulo 4096 (R238). -/
def Obligations.FromWidthResult : Prop :=
  ∀ (s : State) (width delay c : U64),
    decode (.cmd 0x00000002 width delay c) = .ok (.fromWidth width delay) ∧
    exec (.fromWidth width delay) s = .next (
      if 4096 < width.toNat ∨ 4095 < delay.toNat then s.answered .errArgRange 0 0
      else if 4095 ≤ width.toNat then s.answered .ok 4096 0
      else if width.toNat = 0 then s.answered .ok 0 4096
      else s.answered .ok delay (BitVec.ofNat 64 ((delay.toNat + width.toNat) % 4096)))

/-- "for every width w in 0..4095 and delay d in 0..4095, WIDTH applied to the (on, off) that FROM_WIDTH returns for (w, d)
gives w", and width 4096 maps to 4095 (R239). -/
def Obligations.WidthInvertsFromWidth : Prop :=
  ∀ (s : State) (w d : U64), w.toNat ≤ 4096 → d.toNat ≤ 4095 →
    ∃ on off,
      exec (.fromWidth w d) s = .next (s.answered .ok on off) ∧
      exec (.width on off) s = .next (s.answered .ok (BitVec.ofNat 64 (min w.toNat 4095)) 0)

/-- WIDTH_TO_MS: a zero frequency, then the tick range, then the result's fit; the result is the exact quotient rounded once
(R240). -/
def Obligations.WidthToMsResult : Prop :=
  ∀ (s : State) (f t c : U64),
    decode (.cmd 0x00000003 f t c) = .ok (.widthToMs f t) ∧
    (f = 0 → exec (.widthToMs f t) s = .next (s.answered .errFreqNonpos 0 0)) ∧
    (f ≠ 0 → 4096 < t.toNat → exec (.widthToMs f t) s = .next (s.answered .errArgRange 0 0)) ∧
    (f ≠ 0 → t.toNat ≤ 4096 → ∃ q,
      IsNearest s.cfg.roundTies (t.toNat * 1000 * 10 ^ (2 * s.cfg.decScale)) (4096 * f.toNat) q ∧
      exec (.widthToMs f t) s = .next (
        if 2 ^ 64 - 1 < q then s.answered .errOverflow 0 0
        else s.answered .ok (BitVec.ofNat 64 q) 0))

/-- FROM_WIDTH_MS: a zero frequency first; both times converted to ticks by R241's quotient rounded once; the converted width
checked before the converted delay, both with ERR_ARG_RANGE; then FROM_WIDTH's result (R241, R242). -/
def Obligations.FromWidthMsResult : Prop :=
  ∀ (s : State) (w f d : U64),
    decode (.cmd 0x00000004 w f d) = .ok (.fromWidthMs w f d) ∧
    (f = 0 → exec (.fromWidthMs w f d) s = .next (s.answered .errFreqNonpos 0 0)) ∧
    (f ≠ 0 → ∃ wt dt,
      IsNearest s.cfg.roundTies (w.toNat * 4096 * f.toNat) (1000 * 10 ^ (2 * s.cfg.decScale)) wt ∧
      IsNearest s.cfg.roundTies (d.toNat * 4096 * f.toNat) (1000 * 10 ^ (2 * s.cfg.decScale)) dt ∧
      exec (.fromWidthMs w f d) s = .next (
        if 4096 < wt ∨ 4095 < dt then s.answered .errArgRange 0 0
        else if 4095 ≤ wt then s.answered .ok 4096 0
        else if wt = 0 then s.answered .ok 0 4096
        else s.answered .ok (BitVec.ofNat 64 dt) (BitVec.ofNat 64 ((dt + wt) % 4096))))

/-- FREQ_FROM_PRESCALE: the prescale's range, then a zero clock, then the result's fit; the result is the exact quotient rounded
once (R244). -/
def Obligations.FreqFromPrescaleResult : Prop :=
  ∀ (s : State) (p k c : U64),
    decode (.cmd 0x00000005 p k c) = .ok (.freqFromPrescale p k) ∧
    (p.toNat < s.cfg.prescaleMin ∨ s.cfg.prescaleMax < p.toNat →
      exec (.freqFromPrescale p k) s = .next (s.answered .errPrescaleRange 0 0)) ∧
    (s.cfg.prescaleMin ≤ p.toNat → p.toNat ≤ s.cfg.prescaleMax → k = 0 →
      exec (.freqFromPrescale p k) s = .next (s.answered .errClockNonpos 0 0)) ∧
    (s.cfg.prescaleMin ≤ p.toNat → p.toNat ≤ s.cfg.prescaleMax → k ≠ 0 → ∃ q,
      IsNearest s.cfg.roundTies (k.toNat * 10 ^ s.cfg.decScale) (4096 * (p.toNat + 1)) q ∧
      exec (.freqFromPrescale p k) s = .next (
        if 2 ^ 64 - 1 < q then s.answered .errOverflow 0 0
        else s.answered .ok (BitVec.ofNat 64 q) 0))

/-- PRESCALE_FROM_FREQ: a zero frequency, then a zero clock, then the computed prescale's range with no clamping; the quotient is
rounded, not truncated, and 1 is subtracted (R246). -/
def Obligations.PrescaleFromFreqResult : Prop :=
  ∀ (s : State) (f k c : U64),
    decode (.cmd 0x00000006 f k c) = .ok (.prescaleFromFreq f k) ∧
    (f = 0 → exec (.prescaleFromFreq f k) s = .next (s.answered .errFreqNonpos 0 0)) ∧
    (f ≠ 0 → k = 0 → exec (.prescaleFromFreq f k) s = .next (s.answered .errClockNonpos 0 0)) ∧
    (f ≠ 0 → k ≠ 0 → ∃ n,
      IsNearest s.cfg.roundTies (k.toNat * 10 ^ s.cfg.decScale) (4096 * f.toNat) n ∧
      exec (.prescaleFromFreq f k) s = .next (
        if (n : Int) - 1 < s.cfg.prescaleMin ∨ (s.cfg.prescaleMax : Int) < (n : Int) - 1 then
          s.answered .errPrescaleRange 0 0
        else s.answered .ok (BitVec.ofNat 64 (n - 1)) 0))

/-- "Frequency decreases as prescale increases" (R245): of two prescales in range, where the smaller one's frequency fits, the
larger one's does and is not above it. -/
def Obligations.FrequencyFallsAsPrescaleRises : Prop :=
  ∀ (s : State) (p p' k : U64), s.cfg.prescaleMin ≤ p.toNat → p.toNat < p'.toNat → p'.toNat ≤ s.cfg.prescaleMax → k ≠ 0 →
    ∃ r r', exec (.freqFromPrescale p k) s = .next { s with rsp := some r } ∧
      exec (.freqFromPrescale p' k) s = .next { s with rsp := some r' } ∧
      (r.status = .ok → r'.status = .ok ∧ r'.r0.toNat ≤ r.r0.toNat)

/-- Quantization and idempotence at 25 MHz (R248): 50 Hz gives prescale 121, whose frequency is 50.028816598 Hz, between those of
the neighbouring prescales, and from which PRESCALE_FROM_FREQ gives 121 again. -/
def Obligations.FrequencyRoundTripSettles : Prop :=
  ∀ s : State, s.cfg = Config.block →
    exec (.prescaleFromFreq 50000000000 25000000) s = .next (s.answered .ok 121 0) ∧
    exec (.freqFromPrescale 121 25000000) s = .next (s.answered .ok 50028816598 0) ∧
    exec (.freqFromPrescale 120 25000000) s = .next (s.answered .ok 50442277893 0) ∧
    exec (.freqFromPrescale 122 25000000) s = .next (s.answered .ok 49622078252 0) ∧
    exec (.prescaleFromFreq 50028816598 25000000) s = .next (s.answered .ok 121 0)

/-- Every codec command is enabled in every state, writes no state and emits no event, and "with the same operands" returns "the
same response in every state" of one block (R232). -/
def Obligations.CodecIsPure : Prop :=
  ∀ (a b c : U64) (cfg : Config),
    ∀ i ∈ [Instr.width a b, .fromWidth a b, .widthToMs a b, .fromWidthMs a b c, .freqFromPrescale a b, .prescaleFromFreq a b],
    ∃ r : Response, ∀ s : State, s.cfg = cfg → exec i s = .next { s with rsp := some r }

/-! ### Control and the ChannelStore -/

/-- STOP sets STOPPED and answers OK in every state (R270). -/
def Obligations.StopSetsStopped : Prop :=
  ∀ (s : State) (a b c : U64),
    decode (.cmd 0x0000000A a b c) = .ok .stop ∧
    exec .stop s = .next { s.answered .ok 0 0 with stopped := true }

/-- READ_STATUS answers the value its index names, or ERR_ARG_RANGE above 18, and changes nothing (R271, R272). -/
def Obligations.ReadStatusValues : Prop :=
  ∀ (s : State) (i b c : U64),
    decode (.cmd 0x00000009 i b c) = .ok (.readStatus i) ∧
    exec (.readStatus i) s = .next (
      if 18 < i.toNat then s.answered .errArgRange 0 0
      else s.answered .ok ([s.cnt.noise.setWidth 64, s.cnt.ovf.setWidth 64, s.cnt.edgeDrop.setWidth 64, s.cnt.frameDrop.setWidth 64,
          s.cnt.asmErr.setWidth 64, s.cnt.frame.setWidth 64, stateWord s, s.store.seq,
          BitVec.ofNat 64 s.cfg.channelCount, BitVec.ofNat 64 s.cfg.maxChannels, BitVec.ofNat 64 s.cfg.lowLimit,
          BitVec.ofNat 64 s.cfg.syncMin, if s.cfg.valueSel = .high then 0 else 1, BitVec.ofNat 64 s.cfg.edgeDepth,
          BitVec.ofNat 64 s.cfg.frameDepth, BitVec.ofNat 64 s.cfg.decScale, if s.cfg.roundTies = .even then 0 else 1,
          BitVec.ofNat 64 s.cfg.prescaleMin, BitVec.ofNat 64 s.cfg.prescaleMax].getD i.toNat 0) 0)

/-- The STATE word: STOPPED in bit 0, DSTATE in bit 1, ASM_PHASE in bits 3:2, CH_IDX in bits 16:8, every other bit 0 (R273). The
premise is R41's nine bits, log 14. -/
def Obligations.StateWordFields : Prop :=
  stateWord State.reset = 0 ∧
  ∀ s : State, s.dec.chIdx < 2 ^ 9 →
    (stateWord s).toNat = (if s.stopped then 1 else 0) + (match s.dec.state with | .idle => 0 | .capturing => 2) +
      (match s.asm.phase with | .empty => 0 | .low => 4 | .high => 8) + 256 * s.dec.chIdx

/-- READ_CHANNELS answers SEQ, PUB_TS and all of PUB_CH in one response, in every state, and changes nothing (R208). -/
def Obligations.ReadChannelsReturnsSnapshot : Prop :=
  ∀ (s : State) (a b c : U64),
    decode (.cmd 0x00000008 a b c) = .ok .readChannels ∧
    exec .readChannels s = .next { s with rsp := some ⟨.ok, s.store.seq, s.store.pubTs, s.store.pubCh⟩ }

/-- A command answered with a non-zero status writes no state, emits no event and counts nothing; R0, R1 and CH are 0 (R304). -/
def Obligations.ErrorsWriteNothing : Prop :=
  ∀ (i : Instr) (s : State), i.format = .cmd →
    ∃ t r, exec i s = .next t ∧ t.rsp = some r ∧
      (r.status ≠ .ok → t = { s with rsp := some r } ∧ r.r0 = 0 ∧ r.r1 = 0 ∧ r.ch = List.replicate s.cfg.channelCount 0)

/-- A host "cannot write any state except `STOPPED`" (R88): a step in which a host has its turn changes no other element. -/
def Obligations.HostsWriteOnlyStopped : Prop :=
  ∀ (s t : State) (k : Nat) (w : BitVec 32) (a b c : U64), s.nextAction = .host k w a b c → step s = .next t →
    t = { s.taken with stopped := t.stopped, rsp := t.rsp }

/-- "The whole snapshot": DISPATCH pops the oldest frame and writes SEQ, PUB_TS, PUB_CH and FRAME_EVT in one step
(R205, R206). -/
def Obligations.DispatchPublishesOldestFrame : Prop :=
  ∀ (s : State) (f : FrameRec) (q : List FrameRec), s.stopped = false → 0 < s.frame.rvis → s.frame.q = f :: q →
    turn .dispatch s = .next { s with
      frame := { s.frame with q := q, rvis := s.frame.rvis - 1 }
      store := { seq := s.store.seq + 1, pubTs := f.ts, pubCh := f.ch }
      hist := s.hist ++ [.frameEvt (s.store.seq + 1) f.ts] }

/-- The ChannelStore has one writer (R81): a step that changes it is a DISPATCH of the oldest frame in FQ, or a RESET (R206). So a
frame that was dropped never reaches it (R212). -/
def Obligations.SnapshotWrittenOnlyByDispatch : Prop :=
  ∀ s t : State, step s = .next t → t.store ≠ s.store →
    s.nextAction = .rst 1 ∨
    (s.nextAction = .dispatch ∧ s.stopped = false ∧ ∃ f, s.frame.q = f :: t.frame.q ∧
      t.store = { seq := s.store.seq + 1, pubTs := f.ts, pubCh := f.ch })

/-- SEQ counts publishes (R46, R85, R86): over any run, HIST only grows, and with no RESET_EVT in what it gained, SEQ has gone up,
modulo 2^64, by the number of FRAME_EVT in it. -/
def Obligations.SeqCountsPublishes : Prop :=
  ∀ (k : Nat) (s t : State), Host.Core.run Sys2Proof.core k s = .next t →
    ∃ evs : List Event, t.hist = s.hist ++ evs ∧
      (Event.resetEvt ∉ evs → t.store.seq = s.store.seq + BitVec.ofNat 64 (evs.countP Event.isFrame))

/-! ### Edges, FIFOs and synchronizers -/

/-- EDGE: nothing while stopped, a counted drop when the writer's view is full, else queued with its timestamp as it is
(R130, R132). -/
def Obligations.EdgeIsQueuedOrDropped : Prop :=
  ∀ (s : State) (rising : Bool) (ts : I64),
    decode (.edge (BitVec.ofBool rising ++ ts)) = .ok (.edge rising ts) ∧
    exec (.edge rising ts) s = .next (
      if s.stopped then s
      else if s.edge.wfree = 0 then { s with cnt := { s.cnt with edgeDrop := s.cnt.edgeDrop + 1 } }
      else { s with edge := { s.edge with q := s.edge.q ++ [⟨rising, ts⟩], wfree := s.edge.wfree - 1 } })

/-- The four synchronizer steps with a legal draw, in every state, write their view and nothing else (R134, R135, R200, R201). -/
def Obligations.SynchronizersWriteTheirView : Prop :=
  ∀ (s : State) (k : Nat),
    (s.edge.rvis ≤ k → k ≤ s.edge.q.length → turn (.esyncW2R k) s = .next { s with edge := { s.edge with rvis := k } }) ∧
    (s.edge.wfree ≤ k → k + s.edge.q.length ≤ s.cfg.edgeDepth →
      turn (.esyncR2W k) s = .next { s with edge := { s.edge with wfree := k } }) ∧
    (s.frame.rvis ≤ k → k ≤ s.frame.q.length → turn (.fsyncW2R k) s = .next { s with frame := { s.frame with rvis := k } }) ∧
    (s.frame.wfree ≤ k → k + s.frame.q.length ≤ s.cfg.frameDepth →
      turn (.fsyncR2W k) s = .next { s with frame := { s.frame with wfree := k } })

/-- DECODE is enabled exactly when not stopped with a non-empty reader view, and DISPATCH likewise (R170, R205, R77), in every
state whose views are pessimistic (R35, R45). -/
def Obligations.ReadersWaitOnlyForTheirView : Prop :=
  ∀ s : State, s.Inv →
    ((decodeStep s).isSome ↔ s.stopped = false ∧ 0 < s.edge.rvis) ∧
    ((dispatchStep s).isSome ↔ s.stopped = false ∧ 0 < s.frame.rvis)

/-- Entries are popped in the order they were pushed, oldest first, and no entry is changed while in a FIFO (R75), each side by its
one agent (R81): a step but RESET leaves a queue, or removes its head, or appends one entry. -/
def Obligations.QueuesAreFirstInFirstOut : Prop :=
  ∀ s t : State, step s = .next t → s.nextAction ≠ .rst 1 →
    (t.edge.q = s.edge.q ∨ (s.nextAction = .decode ∧ ∃ e, s.edge.q = e :: t.edge.q) ∨
      ∃ w e, s.nextAction = .src w ∧ t.edge.q = s.edge.q ++ [e]) ∧
    (t.frame.q = s.frame.q ∨ (s.nextAction = .dispatch ∧ ∃ f, s.frame.q = f :: t.frame.q) ∨
      ∃ f, s.nextAction = .decode ∧ t.frame.q = s.frame.q ++ [f])

/-- DRAIN leaves nothing to do: in a running block both FIFOs are empty and both views of each are up to date (R114). -/
def Obligations.DrainEmptiesBothQueues : Prop :=
  ∀ s : State, s.Inv → s.stopped = false →
    (drain s).edge = ⟨[], 0, s.cfg.edgeDepth⟩ ∧ (drain s).frame = ⟨[], 0, s.cfg.frameDepth⟩

/-- Eventual delivery (R213): in a fair run that is never stopped and never reset, every frame in FQ is published by some later
DISPATCH. -/
def Obligations.EveryQueuedFrameIsPublished : Prop :=
  ∀ (sched : Nat → Action) (σ : Nat → State), FairRun sched σ → (σ 0).Inv →
    (∀ n, (σ n).stopped = false) → (∀ n, sched n ≠ .rst 1) →
    ∀ n, ∀ f ∈ (σ n).frame.q, ∃ m, n ≤ m ∧ sched m = .dispatch ∧
      (σ (m + 1)).store = { seq := (σ m).store.seq + 1, pubTs := f.ts, pubCh := f.ch }

/-! ### The assembler and the decoder -/

/-- DECODE of one edge in each phase and polarity (R151 to R156): the popped edge updates the assembler, and only a falling edge in
phase HIGH hands the decoder a cycle. -/
def Obligations.AssemblerRules : Prop :=
  ∀ (s : State) (ts : I64) (rising : Bool) (q : List EdgeRec), s.stopped = false → 0 < s.edge.rvis →
    s.edge.q = ⟨rising, ts⟩ :: q →
    let edge' : Fifo EdgeRec := { s.edge with q := q, rvis := s.edge.rvis - 1 }
    (s.asm.phase = .empty → rising = false →
      turn .decode s = .next { s with edge := edge', asm := { s.asm with phase := .low, lt := ts } }) ∧
    (s.asm.phase = .empty → rising = true → turn .decode s = .next { s with edge := edge' }) ∧
    (s.asm.phase = .low → rising = false → turn .decode s = .next { s with
      edge := edge', asm := { s.asm with lt := ts }, cnt := { s.cnt with asmErr := s.cnt.asmErr + 1 } }) ∧
    (s.asm.phase = .low → rising = true → turn .decode s = .next { s with
      edge := edge', asm := { s.asm with phase := .high, ll := ts - s.asm.lt, ht := ts } }) ∧
    (s.asm.phase = .high → rising = true → turn .decode s = .next { s with
      edge := edge', asm := { s.asm with phase := .empty }, cnt := { s.cnt with asmErr := s.cnt.asmErr + 1 } }) ∧
    (s.asm.phase = .high → rising = false → turn .decode s = .next (
      decStep ⟨s.asm.lt, s.asm.ll, s.asm.ht, ts - s.asm.ht⟩
        { s with edge := edge', asm := { s.asm with phase := .low, lt := ts } }))

/-- "With monotonic timestamps every length is ≥ 0 and no wrap occurs unless two timestamps differ by 2^63 or more" (R157). -/
def Obligations.MonotoneLengthsDoNotWrap : Prop :=
  ∀ a b : I64, a.toInt ≤ b.toInt → b.toInt - a.toInt < 2 ^ 63 →
    0 ≤ (sub64 b a).toInt ∧ (sub64 b a).toInt = b.toInt - a.toInt

/-- Noise first, whatever the state: back to IDLE, counted, the frame buffer kept (R171, R172). -/
def Obligations.NoiseIsRejectedFirst : Prop :=
  ∀ (s : State) (c : CycleRec),
    ((s.cfg.lowLimit : Int) ≤ c.lowLength.toInt ∨ c.highLength.toInt ≤ (s.cfg.lowLimit : Int)) →
    decStep c s = { s with
      dec := { s.dec with state := .idle, chIdx := 0 }, cnt := { s.cnt with noise := s.cnt.noise + 1 } }

/-- A sync cycle restarts decoding at channel 0 with an empty frame stamped with its `low_time`, in every decoder state (R173). -/
def Obligations.SyncRestartsDecoding : Prop :=
  ∀ (s : State) (c : CycleRec), c.lowLength.toInt < (s.cfg.lowLimit : Int) → (s.cfg.lowLimit : Int) < c.highLength.toInt →
    (s.cfg.syncMin : Int) ≤ c.highLength.toInt →
    decStep c s = { s with dec :=
      { state := .capturing, chIdx := 0, fbTs := c.lowTime, fbCh := List.replicate s.cfg.maxChannels 0 } }

/-- A channel cycle while IDLE changes nothing (R174); while CAPTURING below the last index it is stored and the index advances
(R175, R179). -/
def Obligations.ChannelCycleIsIgnoredOrStored : Prop :=
  ∀ (s : State) (c : CycleRec), IsChannelCycle s.cfg c →
    (s.dec.state = .idle → decStep c s = s) ∧
    (s.dec.state = .capturing → s.dec.chIdx < s.cfg.maxChannels → s.dec.chIdx ≠ s.cfg.channelCount - 1 →
      decStep c s = { s with dec := { s.dec with
        fbCh := s.dec.fbCh.set s.dec.chIdx
          ((if s.cfg.valueSel = .high then c.highLength else c.lowLength + c.highLength).setWidth 32)
        chIdx := s.dec.chIdx + 1 } })

/-- The N-th channel completes the frame: counted, and queued or, at a full writer view, dropped and counted; back to IDLE
(R177, R178). -/
def Obligations.LastChannelCompletesFrame : Prop :=
  ∀ (s : State) (c : CycleRec), IsChannelCycle s.cfg c → s.dec.state = .capturing → s.dec.chIdx < s.cfg.maxChannels →
    s.dec.chIdx = s.cfg.channelCount - 1 →
    let fb := s.dec.fbCh.set s.dec.chIdx
      ((if s.cfg.valueSel = .high then c.highLength else c.lowLength + c.highLength).setWidth 32)
    let dec' : Dec := { state := .idle, chIdx := 0, fbTs := s.dec.fbTs, fbCh := fb }
    (s.frame.wfree = 0 → decStep c s = { s with
      dec := dec', cnt := { s.cnt with frame := s.cnt.frame + 1, frameDrop := s.cnt.frameDrop + 1 } }) ∧
    (0 < s.frame.wfree → decStep c s = { s with
      dec := dec', cnt := { s.cnt with frame := s.cnt.frame + 1 }
      frame := { s.frame with q := s.frame.q ++ [⟨s.dec.fbTs, fb.take s.cfg.channelCount⟩], wfree := s.frame.wfree - 1 } })

/-- A channel cycle at an index the frame buffer does not have drops the frame: counted, announced by OVF_EVT, nothing pushed,
back to IDLE (R176). -/
def Obligations.OverflowDropsFrame : Prop :=
  ∀ (s : State) (c : CycleRec), IsChannelCycle s.cfg c → s.dec.state = .capturing → s.cfg.maxChannels ≤ s.dec.chIdx →
    decStep c s = { s with
      dec := { s.dec with state := .idle, chIdx := 0 }, cnt := { s.cnt with ovf := s.cnt.ovf + 1 }
      hist := s.hist ++ [.ovfEvt s.dec.fbTs] }

/-- Overflow is "reachable only when N > M" (R176): from a state that meets the invariant, with N at most M, no step counts an
overflow. -/
def Obligations.OverflowNeedsMoreChannelsThanBuffer : Prop :=
  ∀ s t : State, s.Inv → s.cfg.channelCount ≤ s.cfg.maxChannels → step s = .next t → s.nextAction ≠ .rst 1 →
    t.cnt.ovf = s.cnt.ovf ∧ ∀ ts, Event.ovfEvt ts ∉ t.hist.drop s.hist.length

/-- "With N > M every frame overflows and none is ever published" (R348): no step queues a frame. -/
def Obligations.TooFewBuffersNeverQueueAFrame : Prop :=
  ∀ s t : State, s.cfg.maxChannels < s.cfg.channelCount → step s = .next t → ∀ f ∈ t.frame.q, f ∈ s.frame.q

/-- A sync cycle and then N channel cycles, from any decoder state (R173, R175, R177, R178): exactly one frame is queued, stamped
with the sync cycle's `low_time`, whose channels are the N cycles' values in order; FRAME_CNT counts it and nothing else is
counted or announced, and the decoder is IDLE. -/
def Obligations.SyncAndChannelsMakeOneFrame : Prop :=
  ∀ (s : State) (sy : CycleRec) (cs : List CycleRec), s.cfg.legal → s.cfg.channelCount ≤ s.cfg.maxChannels → 0 < s.frame.wfree →
    IsSyncCycle s.cfg sy → cs.length = s.cfg.channelCount → (∀ c ∈ cs, IsChannelCycle s.cfg c) →
    let vs := cs.map fun c => (if s.cfg.valueSel = .high then c.highLength else c.lowLength + c.highLength).setWidth 32
    let t := decCycles s (sy :: cs)
    t = { s with
      dec := { state := .idle, chIdx := 0, fbTs := sy.lowTime,
               fbCh := vs ++ List.replicate (s.cfg.maxChannels - s.cfg.channelCount) 0 }
      frame := { s.frame with q := s.frame.q ++ [⟨sy.lowTime, vs⟩], wfree := s.frame.wfree - 1 }
      cnt := { s.cnt with frame := s.cnt.frame + 1 } }

/-! ### Reset, STOPPED, events, counters, invariants -/

/-- Power-on (R331, R59): this block's state before its first step, `HIST` empty. -/
def Obligations.PowerOnState : Prop :=
  State.reset.edge = ⟨[], 0, 16⟩ ∧ State.reset.asm = ⟨.empty, 0, 0, 0⟩ ∧
  State.reset.dec = ⟨.idle, 0, 0, List.replicate 8 0⟩ ∧ State.reset.frame = ⟨[], 0, 4⟩ ∧
  State.reset.store = ⟨0, 0, List.replicate 8 0⟩ ∧ State.reset.stopped = false ∧
  State.reset.cnt = ⟨0, 0, 0, 0, 0, 0⟩ ∧ State.reset.hist = []

/-- RESET, in every state: every element at its reset value, RESET_EVT appended to `HIST`, the parameters unchanged (R330). -/
def Obligations.ResetRestoresEveryElement : Prop :=
  ∀ s : State, decode (.rst 1) = .ok .reset ∧
    ∃ t, exec .reset s = .next t ∧
      t.edge = ⟨[], 0, s.cfg.edgeDepth⟩ ∧ t.asm = ⟨.empty, 0, 0, 0⟩ ∧
      t.dec = ⟨.idle, 0, 0, List.replicate s.cfg.maxChannels 0⟩ ∧ t.frame = ⟨[], 0, s.cfg.frameDepth⟩ ∧
      t.store = ⟨0, 0, List.replicate s.cfg.channelCount 0⟩ ∧ t.stopped = false ∧
      t.cnt = ⟨0, 0, 0, 0, 0, 0⟩ ∧ t.hist = s.hist ++ [.resetEvt] ∧ t.cfg = s.cfg

/-- STOPPED is "set by the STOP command" and "cleared only by reset", and is 0 at reset (R49): STOP sets it and nothing else does,
RESET clears it and nothing else does. -/
def Obligations.StoppedSetByStopClearedByReset : Prop :=
  State.reset.stopped = false ∧
  (∀ s : State, ∃ t u, exec .stop s = .next t ∧ t.stopped = true ∧ exec .reset s = .next u ∧ u.stopped = false) ∧
  ∀ s t : State, step s = .next t →
    (s.stopped = false → t.stopped = true → ∃ k a b c, s.nextAction = .host k 0x0000000A a b c) ∧
    (s.stopped = true → t.stopped = false → s.nextAction = .rst 1)

/-- While stopped the pipeline stands still (R132, R184, R210, R276): no step but RESET changes a queue, the assembler, the decoder,
the ChannelStore, a counter or `HIST`. -/
def Obligations.StoppedFreezesPipeline : Prop :=
  ∀ s t : State, s.stopped = true → step s = .next t → s.nextAction ≠ .rst 1 →
    t.edge.q = s.edge.q ∧ t.frame.q = s.frame.q ∧ t.asm = s.asm ∧ t.dec = s.dec ∧ t.store = s.store ∧ t.cnt = s.cnt ∧
    t.hist = s.hist ∧ t.stopped = true

/-- "each step emits at most one event: DECODE emits at most one `OVF_EVT`, DISPATCH exactly one `FRAME_EVT`, RST one `RESET_EVT`,
and no other step emits any" (R311). -/
def Obligations.AtMostOneEventPerStep : Prop :=
  ∀ s t : State, step s = .next t →
    (t.hist = s.hist ∨ ∃ ev, t.hist = s.hist ++ [ev] ∧ match ev with
      | .frameEvt seq ts => s.nextAction = .dispatch ∧ seq = t.store.seq ∧ ts = t.store.pubTs
      | .ovfEvt ts => s.nextAction = .decode ∧ ts = s.dec.fbTs
      | .resetEvt => s.nextAction = .rst 1) ∧
    (s.nextAction = .rst 1 → t.hist = s.hist ++ [.resetEvt]) ∧
    (s.nextAction = .dispatch → t.store ≠ s.store → t.hist = s.hist ++ [.frameEvt t.store.seq t.store.pubTs])

/-- Each counter has one writer and goes up by at most one a step, modulo 2^32 (R50, R81). -/
def Obligations.CountersHaveOneWriter : Prop :=
  ∀ s t : State, step s = .next t → s.nextAction ≠ .rst 1 →
    (t.cnt.edgeDrop = s.cnt.edgeDrop ∨ ((∃ w, s.nextAction = .src w) ∧ t.cnt.edgeDrop = s.cnt.edgeDrop + 1)) ∧
    (t.cnt.noise = s.cnt.noise ∨ (s.nextAction = .decode ∧ t.cnt.noise = s.cnt.noise + 1)) ∧
    (t.cnt.ovf = s.cnt.ovf ∨ (s.nextAction = .decode ∧ t.cnt.ovf = s.cnt.ovf + 1)) ∧
    (t.cnt.frameDrop = s.cnt.frameDrop ∨ (s.nextAction = .decode ∧ t.cnt.frameDrop = s.cnt.frameDrop + 1)) ∧
    (t.cnt.asmErr = s.cnt.asmErr ∨ (s.nextAction = .decode ∧ t.cnt.asmErr = s.cnt.asmErr + 1)) ∧
    (t.cnt.frame = s.cnt.frame ∨ (s.nextAction = .decode ∧ t.cnt.frame = s.cnt.frame + 1))

/-- Every step keeps the invariant of 10_state.md: both FIFOs' views (R35, R45), CH_IDX's bounds (R41), the lengths of the
arrays. -/
def Obligations.StepKeepsInvariant : Prop :=
  ∀ s t : State, s.Inv → step s = .next t → t.Inv

/-- The reset state of every configuration, this block's included, meets that invariant. -/
def Obligations.ResetMeetsInvariant : Prop :=
  State.reset.Inv ∧ ∀ cfg : Config, (State.powerOn cfg).Inv

/-- With VALUE_SEL = HIGH every channel captured, queued or published is between LOW_LIMIT and SYNC_MIN, and no step changes that
(R175's corner case, R179: the truncation to 32 bits never changes it). -/
def Obligations.StepKeepsChannelsInRange : Prop :=
  ∀ s t : State, s.InRange → s.cfg.valueSel = .high → step s = .next t → t.InRange

/-- The reset state of every configuration meets the channel range invariant. -/
def Obligations.ResetMeetsChannelRange : Prop :=
  State.reset.InRange ∧ ∀ cfg : Config, (State.powerOn cfg).InRange

/-! ### Pseudo-instructions -/

/-- SET_FREQ `<f>, <clk>` is PRESCALE_FROM_FREQ `<f>, <clk>`, with f as a Dec64 operand and clk as an integer one, and then, if its
STATUS is OK, FREQ_FROM_PRESCALE `<R0>, <clk>`, whose answer is the line's (R114, R247). Two clauses are the
model's choice, log 19: that no other agent steps between the two commands, and that a line with a literal that does not assemble
(R113) has no run at all. -/
def Obligations.SetFreqRunsBothCommands : Prop :=
  ∀ (s : State) (freq clock : Literal),
    (∀ f c, dec64Operand s.cfg freq = some f → intOperand s.cfg clock = some c →
      ∃ t r, exec (.prescaleFromFreq f c) s = .next t ∧ t.rsp = some r ∧
        (r.status ≠ .ok → runLine (.setFreq freq clock) s = some t) ∧
        (r.status = .ok → ∃ u, exec (.freqFromPrescale r.r0 c) s = .next u ∧
          runLine (.setFreq freq clock) s = some u)) ∧
    (dec64Operand s.cfg freq = none ∨ intOperand s.cfg clock = none → runLine (.setFreq freq clock) s = none)
end

