-- ==== Sys2Proof/Laws/Decode.lean ====
section
/-! SUPPORT. The fields of a command word and of an edge word: reading a field back from a word put together from its fields. -/

namespace Sys2Proof

theorem extract_low_append {n m : Nat} (x : BitVec n) (y : BitVec m) : (x ++ y).extractLsb' 0 m = y := by
  ext i hi; simp [BitVec.getLsbD_append, hi, BitVec.getLsbD_eq_getElem]

theorem extract_high_append {n m : Nat} (x : BitVec n) (y : BitVec m) : (x ++ y).extractLsb' m n = x := by
  ext i hi; simp [BitVec.getLsbD_append, BitVec.getLsbD_eq_getElem, hi]

theorem append_extract {n m : Nat} (w : BitVec (n + m)) : w.extractLsb' m n ++ w.extractLsb' 0 m = w := by
  ext i hi
  simp only [BitVec.getElem_append, BitVec.getElem_extractLsb']
  split
  · simp [BitVec.getLsbD_eq_getElem, hi]
  · rw [BitVec.getLsbD_eq_getElem (by omega)]; congr 1; omega

@[simp] theorem cmdOp_cmdWord (rsvd : BitVec 28) (op : BitVec 4) : cmdOp (cmdWord rsvd op) = op := extract_low_append rsvd op

@[simp] theorem cmdRsvd_cmdWord (rsvd : BitVec 28) (op : BitVec 4) : cmdRsvd (cmdWord rsvd op) = rsvd :=
  extract_high_append rsvd op

/-- A command word is its two fields (R101). -/
@[simp] theorem cmdWord_fields (w : BitVec 32) : cmdWord (cmdRsvd w) (cmdOp w) = w := append_extract (n := 28) (m := 4) w

theorem cmdOp_toNat (w : BitVec 32) : (cmdOp w).toNat = w.toNat % 16 := by simp [cmdOp]

theorem cmdRsvd_toNat (w : BitVec 32) : (cmdRsvd w).toNat = w.toNat / 16 := by
  simp [cmdRsvd, Nat.shiftRight_eq_div_pow]; omega

/-- A word of an assigned OP with RSVD not 0 is the row ILLEGAL_RSVD (R115). -/
theorem unlessRsvd_of_ne {op : BitVec 4} {rsvd : BitVec 28} (h : rsvd ≠ 0) (i : Instr) :
    unlessRsvd op rsvd i = .illegalRsvd op rsvd := if_neg h

theorem unlessRsvd_zero (op : BitVec 4) (i : Instr) : unlessRsvd op 0 i = i := if_pos rfl

/-- Bit 64 of an edge word is its polarity, and bits 63:0 are its timestamp (R103). -/
theorem edgeWord_ts {r : BitVec 1} (ts : I64) : (r ++ ts : BitVec 65).extractLsb' 0 64 = ts := extract_low_append r ts

theorem edgeWord_polarity (r : BitVec 1) (ts : I64) : (r ++ ts : BitVec 65).getLsbD 64 = (r == 1) := by
  have h : ∀ {n m : Nat} (x : BitVec n) (y : BitVec m), (x ++ y).getLsbD m = x.getLsbD 0 := by
    intro n m x y; simp [BitVec.getLsbD_append]
  rw [show (r ++ ts : BitVec 65).getLsbD 64 = r.getLsbD 0 from h r ts]
  revert r; decide

end Sys2Proof
end

