-- ==== Sys2Proof/Laws/State.lean ====
section
/-! SUPPORT. One lemma per field of State per named update, so that no proof unfolds an update. -/

namespace Sys2Proof.Machine

variable (s : State)

/-! ### emit -/

@[simp] theorem State.emit_cfg (ev : Event) : (s.emit ev).cfg = s.cfg := rfl
@[simp] theorem State.emit_edge (ev : Event) : (s.emit ev).edge = s.edge := rfl
@[simp] theorem State.emit_asm (ev : Event) : (s.emit ev).asm = s.asm := rfl
@[simp] theorem State.emit_dec (ev : Event) : (s.emit ev).dec = s.dec := rfl
@[simp] theorem State.emit_frame (ev : Event) : (s.emit ev).frame = s.frame := rfl
@[simp] theorem State.emit_store (ev : Event) : (s.emit ev).store = s.store := rfl
@[simp] theorem State.emit_stopped (ev : Event) : (s.emit ev).stopped = s.stopped := rfl
@[simp] theorem State.emit_cnt (ev : Event) : (s.emit ev).cnt = s.cnt := rfl
@[simp] theorem State.emit_hist (ev : Event) : (s.emit ev).hist = s.hist ++ [ev] := rfl
@[simp] theorem State.emit_rsp (ev : Event) : (s.emit ev).rsp = s.rsp := rfl
@[simp] theorem State.emit_pending (ev : Event) : (s.emit ev).pending = s.pending := rfl
@[simp] theorem State.emit_tick (ev : Event) : (s.emit ev).tick = s.tick := rfl

/-! ### respond -/

@[simp] theorem State.respond_cfg (r : Response) : (s.respond r).cfg = s.cfg := rfl
@[simp] theorem State.respond_edge (r : Response) : (s.respond r).edge = s.edge := rfl
@[simp] theorem State.respond_asm (r : Response) : (s.respond r).asm = s.asm := rfl
@[simp] theorem State.respond_dec (r : Response) : (s.respond r).dec = s.dec := rfl
@[simp] theorem State.respond_frame (r : Response) : (s.respond r).frame = s.frame := rfl
@[simp] theorem State.respond_store (r : Response) : (s.respond r).store = s.store := rfl
@[simp] theorem State.respond_stopped (r : Response) : (s.respond r).stopped = s.stopped := rfl
@[simp] theorem State.respond_cnt (r : Response) : (s.respond r).cnt = s.cnt := rfl
@[simp] theorem State.respond_hist (r : Response) : (s.respond r).hist = s.hist := rfl
@[simp] theorem State.respond_rsp (r : Response) : (s.respond r).rsp = some r := rfl
@[simp] theorem State.respond_pending (r : Response) : (s.respond r).pending = s.pending := rfl
@[simp] theorem State.respond_tick (r : Response) : (s.respond r).tick = s.tick := rfl

/-! ### setEdge -/

@[simp] theorem State.setEdge_cfg (f : Fifo EdgeRec) : (s.setEdge f).cfg = s.cfg := rfl
@[simp] theorem State.setEdge_edge (f : Fifo EdgeRec) : (s.setEdge f).edge = f := rfl
@[simp] theorem State.setEdge_asm (f : Fifo EdgeRec) : (s.setEdge f).asm = s.asm := rfl
@[simp] theorem State.setEdge_dec (f : Fifo EdgeRec) : (s.setEdge f).dec = s.dec := rfl
@[simp] theorem State.setEdge_frame (f : Fifo EdgeRec) : (s.setEdge f).frame = s.frame := rfl
@[simp] theorem State.setEdge_store (f : Fifo EdgeRec) : (s.setEdge f).store = s.store := rfl
@[simp] theorem State.setEdge_stopped (f : Fifo EdgeRec) : (s.setEdge f).stopped = s.stopped := rfl
@[simp] theorem State.setEdge_cnt (f : Fifo EdgeRec) : (s.setEdge f).cnt = s.cnt := rfl
@[simp] theorem State.setEdge_hist (f : Fifo EdgeRec) : (s.setEdge f).hist = s.hist := rfl
@[simp] theorem State.setEdge_rsp (f : Fifo EdgeRec) : (s.setEdge f).rsp = s.rsp := rfl
@[simp] theorem State.setEdge_pending (f : Fifo EdgeRec) : (s.setEdge f).pending = s.pending := rfl
@[simp] theorem State.setEdge_tick (f : Fifo EdgeRec) : (s.setEdge f).tick = s.tick := rfl

/-! ### setFrame -/

@[simp] theorem State.setFrame_cfg (f : Fifo FrameRec) : (s.setFrame f).cfg = s.cfg := rfl
@[simp] theorem State.setFrame_edge (f : Fifo FrameRec) : (s.setFrame f).edge = s.edge := rfl
@[simp] theorem State.setFrame_asm (f : Fifo FrameRec) : (s.setFrame f).asm = s.asm := rfl
@[simp] theorem State.setFrame_dec (f : Fifo FrameRec) : (s.setFrame f).dec = s.dec := rfl
@[simp] theorem State.setFrame_frame (f : Fifo FrameRec) : (s.setFrame f).frame = f := rfl
@[simp] theorem State.setFrame_store (f : Fifo FrameRec) : (s.setFrame f).store = s.store := rfl
@[simp] theorem State.setFrame_stopped (f : Fifo FrameRec) : (s.setFrame f).stopped = s.stopped := rfl
@[simp] theorem State.setFrame_cnt (f : Fifo FrameRec) : (s.setFrame f).cnt = s.cnt := rfl
@[simp] theorem State.setFrame_hist (f : Fifo FrameRec) : (s.setFrame f).hist = s.hist := rfl
@[simp] theorem State.setFrame_rsp (f : Fifo FrameRec) : (s.setFrame f).rsp = s.rsp := rfl
@[simp] theorem State.setFrame_pending (f : Fifo FrameRec) : (s.setFrame f).pending = s.pending := rfl
@[simp] theorem State.setFrame_tick (f : Fifo FrameRec) : (s.setFrame f).tick = s.tick := rfl

/-! ### setAsm -/

@[simp] theorem State.setAsm_cfg (a : Asm) : (s.setAsm a).cfg = s.cfg := rfl
@[simp] theorem State.setAsm_edge (a : Asm) : (s.setAsm a).edge = s.edge := rfl
@[simp] theorem State.setAsm_asm (a : Asm) : (s.setAsm a).asm = a := rfl
@[simp] theorem State.setAsm_dec (a : Asm) : (s.setAsm a).dec = s.dec := rfl
@[simp] theorem State.setAsm_frame (a : Asm) : (s.setAsm a).frame = s.frame := rfl
@[simp] theorem State.setAsm_store (a : Asm) : (s.setAsm a).store = s.store := rfl
@[simp] theorem State.setAsm_stopped (a : Asm) : (s.setAsm a).stopped = s.stopped := rfl
@[simp] theorem State.setAsm_cnt (a : Asm) : (s.setAsm a).cnt = s.cnt := rfl
@[simp] theorem State.setAsm_hist (a : Asm) : (s.setAsm a).hist = s.hist := rfl
@[simp] theorem State.setAsm_rsp (a : Asm) : (s.setAsm a).rsp = s.rsp := rfl
@[simp] theorem State.setAsm_pending (a : Asm) : (s.setAsm a).pending = s.pending := rfl
@[simp] theorem State.setAsm_tick (a : Asm) : (s.setAsm a).tick = s.tick := rfl

/-! ### setDec -/

@[simp] theorem State.setDec_cfg (d : Dec) : (s.setDec d).cfg = s.cfg := rfl
@[simp] theorem State.setDec_edge (d : Dec) : (s.setDec d).edge = s.edge := rfl
@[simp] theorem State.setDec_asm (d : Dec) : (s.setDec d).asm = s.asm := rfl
@[simp] theorem State.setDec_dec (d : Dec) : (s.setDec d).dec = d := rfl
@[simp] theorem State.setDec_frame (d : Dec) : (s.setDec d).frame = s.frame := rfl
@[simp] theorem State.setDec_store (d : Dec) : (s.setDec d).store = s.store := rfl
@[simp] theorem State.setDec_stopped (d : Dec) : (s.setDec d).stopped = s.stopped := rfl
@[simp] theorem State.setDec_cnt (d : Dec) : (s.setDec d).cnt = s.cnt := rfl
@[simp] theorem State.setDec_hist (d : Dec) : (s.setDec d).hist = s.hist := rfl
@[simp] theorem State.setDec_rsp (d : Dec) : (s.setDec d).rsp = s.rsp := rfl
@[simp] theorem State.setDec_pending (d : Dec) : (s.setDec d).pending = s.pending := rfl
@[simp] theorem State.setDec_tick (d : Dec) : (s.setDec d).tick = s.tick := rfl

/-! ### setStore -/

@[simp] theorem State.setStore_cfg (st : Store) : (s.setStore st).cfg = s.cfg := rfl
@[simp] theorem State.setStore_edge (st : Store) : (s.setStore st).edge = s.edge := rfl
@[simp] theorem State.setStore_asm (st : Store) : (s.setStore st).asm = s.asm := rfl
@[simp] theorem State.setStore_dec (st : Store) : (s.setStore st).dec = s.dec := rfl
@[simp] theorem State.setStore_frame (st : Store) : (s.setStore st).frame = s.frame := rfl
@[simp] theorem State.setStore_store (st : Store) : (s.setStore st).store = st := rfl
@[simp] theorem State.setStore_stopped (st : Store) : (s.setStore st).stopped = s.stopped := rfl
@[simp] theorem State.setStore_cnt (st : Store) : (s.setStore st).cnt = s.cnt := rfl
@[simp] theorem State.setStore_hist (st : Store) : (s.setStore st).hist = s.hist := rfl
@[simp] theorem State.setStore_rsp (st : Store) : (s.setStore st).rsp = s.rsp := rfl
@[simp] theorem State.setStore_pending (st : Store) : (s.setStore st).pending = s.pending := rfl
@[simp] theorem State.setStore_tick (st : Store) : (s.setStore st).tick = s.tick := rfl

/-! ### setStopped -/

@[simp] theorem State.setStopped_cfg : s.setStopped.cfg = s.cfg := rfl
@[simp] theorem State.setStopped_edge : s.setStopped.edge = s.edge := rfl
@[simp] theorem State.setStopped_asm : s.setStopped.asm = s.asm := rfl
@[simp] theorem State.setStopped_dec : s.setStopped.dec = s.dec := rfl
@[simp] theorem State.setStopped_frame : s.setStopped.frame = s.frame := rfl
@[simp] theorem State.setStopped_store : s.setStopped.store = s.store := rfl
@[simp] theorem State.setStopped_stopped : s.setStopped.stopped = true := rfl
@[simp] theorem State.setStopped_cnt : s.setStopped.cnt = s.cnt := rfl
@[simp] theorem State.setStopped_hist : s.setStopped.hist = s.hist := rfl
@[simp] theorem State.setStopped_rsp : s.setStopped.rsp = s.rsp := rfl
@[simp] theorem State.setStopped_pending : s.setStopped.pending = s.pending := rfl
@[simp] theorem State.setStopped_tick : s.setStopped.tick = s.tick := rfl

/-! ### setCnt -/

@[simp] theorem State.setCnt_cfg (c : Counters) : (s.setCnt c).cfg = s.cfg := rfl
@[simp] theorem State.setCnt_edge (c : Counters) : (s.setCnt c).edge = s.edge := rfl
@[simp] theorem State.setCnt_asm (c : Counters) : (s.setCnt c).asm = s.asm := rfl
@[simp] theorem State.setCnt_dec (c : Counters) : (s.setCnt c).dec = s.dec := rfl
@[simp] theorem State.setCnt_frame (c : Counters) : (s.setCnt c).frame = s.frame := rfl
@[simp] theorem State.setCnt_store (c : Counters) : (s.setCnt c).store = s.store := rfl
@[simp] theorem State.setCnt_stopped (c : Counters) : (s.setCnt c).stopped = s.stopped := rfl
@[simp] theorem State.setCnt_cnt (c : Counters) : (s.setCnt c).cnt = c := rfl
@[simp] theorem State.setCnt_hist (c : Counters) : (s.setCnt c).hist = s.hist := rfl
@[simp] theorem State.setCnt_rsp (c : Counters) : (s.setCnt c).rsp = s.rsp := rfl
@[simp] theorem State.setCnt_pending (c : Counters) : (s.setCnt c).pending = s.pending := rfl
@[simp] theorem State.setCnt_tick (c : Counters) : (s.setCnt c).tick = s.tick := rfl

/-! ### clear (RESET's writes, R330) -/

@[simp] theorem State.clear_cfg : s.clear.cfg = s.cfg := rfl
@[simp] theorem State.clear_edge : s.clear.edge = (State.powerOn s.cfg).edge := rfl
@[simp] theorem State.clear_asm : s.clear.asm = (State.powerOn s.cfg).asm := rfl
@[simp] theorem State.clear_dec : s.clear.dec = (State.powerOn s.cfg).dec := rfl
@[simp] theorem State.clear_frame : s.clear.frame = (State.powerOn s.cfg).frame := rfl
@[simp] theorem State.clear_store : s.clear.store = (State.powerOn s.cfg).store := rfl
@[simp] theorem State.clear_stopped : s.clear.stopped = (State.powerOn s.cfg).stopped := rfl
@[simp] theorem State.clear_cnt : s.clear.cnt = (State.powerOn s.cfg).cnt := rfl
@[simp] theorem State.clear_hist : s.clear.hist = s.hist := rfl
@[simp] theorem State.clear_rsp : s.clear.rsp = s.rsp := rfl
@[simp] theorem State.clear_pending : s.clear.pending = s.pending := rfl
@[simp] theorem State.clear_tick : s.clear.tick = s.tick := rfl

/-! ### taken (a turn begins) -/

@[simp] theorem State.taken_cfg : s.taken.cfg = s.cfg := by unfold State.taken; split <;> rfl
@[simp] theorem State.taken_edge : s.taken.edge = s.edge := by unfold State.taken; split <;> rfl
@[simp] theorem State.taken_asm : s.taken.asm = s.asm := by unfold State.taken; split <;> rfl
@[simp] theorem State.taken_dec : s.taken.dec = s.dec := by unfold State.taken; split <;> rfl
@[simp] theorem State.taken_frame : s.taken.frame = s.frame := by unfold State.taken; split <;> rfl
@[simp] theorem State.taken_store : s.taken.store = s.store := by unfold State.taken; split <;> rfl
@[simp] theorem State.taken_stopped : s.taken.stopped = s.stopped := by unfold State.taken; split <;> rfl
@[simp] theorem State.taken_cnt : s.taken.cnt = s.cnt := by unfold State.taken; split <;> rfl
@[simp] theorem State.taken_hist : s.taken.hist = s.hist := by unfold State.taken; split <;> rfl
@[simp] theorem State.taken_rsp : s.taken.rsp = none := by unfold State.taken; split <;> rfl

theorem State.taken_of_cons {s : State} {a : Action} {rest : List Action} (h : s.pending = a :: rest) :
    s.taken = { s with pending := rest, rsp := none } := by simp [State.taken, h]

theorem State.nextAction_of_cons {s : State} {a : Action} {rest : List Action} (h : s.pending = a :: rest) :
    s.nextAction = a := by simp [State.nextAction, h]

theorem State.nextAction_of_nil {s : State} (h : s.pending = []) : s.nextAction = Config.schedule s.tick := by
  simp [State.nextAction, h]

end Sys2Proof.Machine
end

