-- ==== Sys2Proof/Laws/Ops.lean ====
section
/-! SUPPORT. What each shared operation can do, said once. Later proofs cite these and do not unfold the operation. -/

namespace Sys2Proof.Machine

variable {α : Type}

/-! ### The FIFOs -/

theorem Fifo.push_eq_some {e : α} {f g : Fifo α} (h : f.push e = some g) :
    0 < f.wfree ∧ g = { f with q := f.q ++ [e], wfree := f.wfree - 1 } := by
  unfold Fifo.push at h
  split at h
  · cases h
  · exact ⟨by omega, by simpa using h.symm⟩

theorem Fifo.push_eq_none {e : α} {f : Fifo α} : f.push e = none ↔ f.wfree = 0 := by
  unfold Fifo.push; split <;> simp_all

theorem Fifo.pop_eq_some {f g : Fifo α} {e : α} (h : f.pop = some (e, g)) :
    0 < f.rvis ∧ f.q = e :: g.q ∧ g.rvis = f.rvis - 1 ∧ g.wfree = f.wfree := by
  unfold Fifo.pop at h
  split at h
  · cases h
  · split at h
    · cases h
    · next hq => cases h; exact ⟨by omega, hq, rfl, rfl⟩

theorem Fifo.pop_eq_none {f : Fifo α} : f.pop = none ↔ f.rvis = 0 ∨ f.q = [] := by
  unfold Fifo.pop
  split
  · simp_all
  · split <;> simp_all

theorem Fifo.pop_cons (f : Fifo α) {e : α} {q : List α} (hv : 0 < f.rvis) (hq : f.q = e :: q) :
    f.pop = some (e, { f with q := q, rvis := f.rvis - 1 }) := by
  have : f.rvis ≠ 0 := by omega
  simp [Fifo.pop, this, hq]

theorem Fifo.syncW2R_eq_some {k : Nat} {f g : Fifo α} (h : f.syncW2R k = some g) :
    (f.rvis ≤ k ∧ k ≤ f.q.length) ∧ g = { f with rvis := k } := by
  unfold Fifo.syncW2R at h
  split at h
  · next hk => exact ⟨hk, by simpa using h.symm⟩
  · cases h

theorem Fifo.syncR2W_eq_some {depth k : Nat} {f g : Fifo α} (h : f.syncR2W depth k = some g) :
    (f.wfree ≤ k ∧ k + f.q.length ≤ depth) ∧ g = { f with wfree := k } := by
  unfold Fifo.syncR2W at h
  split at h
  · next hk => exact ⟨hk, by simpa using h.symm⟩
  · cases h

/-- Every FIFO operation keeps the invariant of R35. -/
theorem Fifo.push_ok {depth : Nat} {e : α} {f g : Fifo α} (hf : f.Ok depth) (h : f.push e = some g) : g.Ok depth := by
  obtain ⟨h0, rfl⟩ := Fifo.push_eq_some h
  obtain ⟨h1, h2⟩ := hf
  exact ⟨by simp; omega, by simp; omega⟩

theorem Fifo.pop_ok {depth : Nat} {e : α} {f g : Fifo α} (hf : f.Ok depth) (h : f.pop = some (e, g)) : g.Ok depth := by
  obtain ⟨h0, hq, hr, hw⟩ := Fifo.pop_eq_some h
  obtain ⟨h1, h2⟩ := hf
  simp only [hq, List.length_cons] at h1 h2
  exact ⟨by omega, by omega⟩

theorem Fifo.syncW2R_ok {depth k : Nat} {f g : Fifo α} (hf : f.Ok depth) (h : f.syncW2R k = some g) : g.Ok depth := by
  obtain ⟨⟨h0, h1⟩, rfl⟩ := Fifo.syncW2R_eq_some h
  exact ⟨h1, hf.2⟩

theorem Fifo.syncR2W_ok {depth k : Nat} {f g : Fifo α} (hf : f.Ok depth) (h : f.syncR2W depth k = some g) : g.Ok depth := by
  obtain ⟨⟨h0, h1⟩, rfl⟩ := Fifo.syncR2W_eq_some h
  exact ⟨hf.1, h1⟩

/-! ### Responses -/

/-- All a host command's `answer` does. -/
theorem answer_eq (a : Answer) (s : State) :
    answer a s = .next (s.respond ⟨a.status, a.r0, a.r1, List.replicate s.cfg.channelCount 0⟩) := rfl

theorem illegal_eq (s : State) :
    illegal s = .next (s.respond ⟨.errIllegalOp, 0, 0, List.replicate s.cfg.channelCount 0⟩) := rfl

/-- The rounding never moves further than to the next integer. -/
theorem roundNearest_cases (t : RoundTies) (num den : Nat) :
    roundNearest t num den = num / den ∨ roundNearest t num den = num / den + 1 := by
  unfold roundNearest
  cases t <;> (dsimp only; split_ifs <;> simp)

/-! ### SET_FREQ -/

/-- All SET_FREQ does when its literals assemble: one answer, `setFreqAnswer`'s (R114, R247). -/
theorem runSetFreq_eq {freq clock : Literal} {f c : U64} {s : State} (hf : dec64Operand s.cfg freq = some f)
    (hc : intOperand s.cfg clock = some c) :
    runSetFreq freq clock s = some (s.answered (setFreqAnswer s.cfg f c).status (setFreqAnswer s.cfg f c).r0
      (setFreqAnswer s.cfg f c).r1) := by
  have h1 : runItem (setFreqFirst freq clock) s =
      runInstr (.prescaleFromFreq f c) { s with rsp := none } := by simp [runItem, setFreqFirst, assemble, hf, hc]
  have h2 : runInstr (.prescaleFromFreq f c) { s with rsp := none } = some (s.answered
      (prescaleFromFreqAnswer s.cfg f c).status (prescaleFromFreqAnswer s.cfg f c).r0 (prescaleFromFreqAnswer s.cfg f c).r1) := rfl
  simp only [runSetFreq, hc, h1, h2, Option.bind_some, setFreqFinish, setFreqSecond, setFreqAnswer]
  split_ifs <;> rfl

/-! ### The assembler and the decoder -/

/-- The assembler writes its own state and ASM_ERR_CNT only, and returns a cycle in phase HIGH at a falling edge only
(R151 to R156). -/
theorem asmStep_frame (e : EdgeRec) (s : State) :
    (asmStep e s).1 = { s with asm := (asmStep e s).1.asm, cnt := (asmStep e s).1.cnt } ∧
    ((asmStep e s).1.cnt = s.cnt ∨ (asmStep e s).1.cnt = s.cnt.incAsmErr) ∧
    (∀ c, (asmStep e s).2 = some c → s.asm.phase = .high ∧ e.rising = false ∧ c = asmCycle e.ts s.asm) := by
  unfold asmStep
  split <;> simp [asmEmptyFall, asmEmptyRise, asmLowFall, asmLowRise, asmHighRise, asmHighFall, State.setAsm, State.setCnt]
  all_goals simp_all

/-- FRAME_PUSH either queues the frame or counts the drop (R178). -/
theorem framePush_cases (f : FrameRec) (s : State) :
    (s.frame.wfree = 0 ∧ framePush f s = s.setCnt s.cnt.incFrameDrop) ∨
    (0 < s.frame.wfree ∧
      framePush f s = s.setFrame { s.frame with q := s.frame.q ++ [f], wfree := s.frame.wfree - 1 }) := by
  unfold framePush
  split
  · next h => exact .inl ⟨Fifo.push_eq_none.mp h, rfl⟩
  · next g h => obtain ⟨h0, rfl⟩ := Fifo.push_eq_some h; exact .inr ⟨h0, rfl⟩

/-- CAPTURE is an overflow, a store of a channel before the last, or the store of the last one and a completion
(R175 to R177). -/
theorem capture_cases (c : CycleRec) (s : State) :
    (s.cfg.maxChannels ≤ s.dec.chIdx ∧ capture c s = overflow s) ∨
    (s.dec.chIdx < s.cfg.maxChannels ∧ s.dec.chIdx = s.cfg.channelCount - 1 ∧
      capture c s = complete (captureStore (trunc32 (chval s.cfg c)) s)) ∨
    (s.dec.chIdx < s.cfg.maxChannels ∧ s.dec.chIdx ≠ s.cfg.channelCount - 1 ∧
      capture c s = s.setDec { s.dec with
        fbCh := s.dec.fbCh.set s.dec.chIdx (trunc32 (chval s.cfg c)), chIdx := s.dec.chIdx + 1 }) := by
  unfold capture
  split
  · next h => exact .inl ⟨h, rfl⟩
  · next h =>
    dsimp only
    split
    · next h' => exact .inr (.inl ⟨by omega, h', rfl⟩)
    · next h' => exact .inr (.inr ⟨by omega, h', rfl⟩)

/-- DEC_STEP applies exactly one of R172 to R175, in that order (R171). -/
theorem decStep_cases (c : CycleRec) (s : State) :
    (isNoise s.cfg c = true ∧ decStep c s = noise s) ∨
    (isNoise s.cfg c = false ∧ isSync s.cfg c = true ∧ decStep c s = sync c s) ∨
    (isNoise s.cfg c = false ∧ isSync s.cfg c = false ∧ s.dec.state = .idle ∧ decStep c s = s) ∨
    (isNoise s.cfg c = false ∧ isSync s.cfg c = false ∧ s.dec.state = .capturing ∧ decStep c s = capture c s) := by
  unfold decStep
  cases hn : isNoise s.cfg c <;> cases hs : isSync s.cfg c <;> cases hd : s.dec.state <;> simp [ignore]

/-- A popped edge goes to the assembler, and the cycle it returns, if any, to the decoder (R170). -/
theorem consumeEdge_cases (e : EdgeRec) (s : State) :
    ((asmStep e s).2 = none ∧ consumeEdge e s = (asmStep e s).1) ∨
    (∃ c, (asmStep e s).2 = some c ∧ consumeEdge e s = decStep c (asmStep e s).1) := by
  unfold consumeEdge
  split <;> simp_all

/-- All DECODE can do (R170). -/
theorem decodeStep_eq_some {s t : State} (h : decodeStep s = some t) :
    s.stopped = false ∧ ∃ e f, s.edge.pop = some (e, f) ∧ t = consumeEdge e (s.setEdge f) := by
  unfold decodeStep at h
  split at h
  · cases h
  · next hs =>
    simp only [Option.map_eq_some_iff] at h
    obtain ⟨⟨e, f⟩, hp, rfl⟩ := h
    exact ⟨by simpa using hs, e, f, hp, rfl⟩

/-- All DISPATCH can do (R205, R206). -/
theorem dispatchStep_eq_some {s t : State} (h : dispatchStep s = some t) :
    s.stopped = false ∧ ∃ e f, s.frame.pop = some (e, f) ∧ t = publish e (s.setFrame f) := by
  unfold dispatchStep at h
  split at h
  · cases h
  · next hs =>
    simp only [Option.map_eq_some_iff] at h
    obtain ⟨⟨e, f⟩, hp, rfl⟩ := h
    exact ⟨by simpa using hs, e, f, hp, rfl⟩

/-! ### The turn of an agent -/

/-- An internal step runs if it is enabled, and else the state stays (log 4). -/
theorem runAgent_cases (o : Option State) (s : State) :
    (∃ t, o = some t ∧ runAgent o s = .next t) ∨ (o = none ∧ runAgent o s = .next s) := by
  cases o <;> simp [runAgent]

/-- A port word runs the instruction it decodes to, and the reset pin at 0 runs none (log 9). -/
theorem runPort_cases (p : PortWord) (s : State) :
    (∃ i, decode p = .ok i ∧ runPort p s = exec i s) ∨ (∃ e, decode p = .error e ∧ runPort p s = .next s) := by
  unfold runPort
  split
  · next i h => exact .inl ⟨i, h, rfl⟩
  · next e h => exact .inr ⟨e, h, rfl⟩

/-- A step that answers a next state is a turn of a legal block (R9). -/
theorem step_eq_next {s t : State} (h : step s = .next t) : s.cfg.legal ∧ turn s.nextAction s.taken = .next t := by
  unfold step at h
  split at h
  · next hl => exact ⟨hl, h⟩
  · cases h

theorem step_of_legal {s : State} (h : s.cfg.legal) : step s = turn s.nextAction s.taken := if_pos h

end Sys2Proof.Machine
end

