-- ==== Sys2Proof/Laws/PerInstr.lean ====
section
/-! SUPPORT. Facts about every instruction as syntax, one lemma per constructor. -/

namespace Sys2Proof.Laws.EncodedFormat

/-- An instruction's encoding stands on the port that opcode_table.json's "format" gives its row (30_encoding.md rule R100). -/
def Statement (i : Instr) : Prop := (encode i).format = i.format

theorem width (on off : U64) : Statement (.width on off) := rfl
theorem fromWidth (w d : U64) : Statement (.fromWidth w d) := rfl
theorem widthToMs (f t : U64) : Statement (.widthToMs f t) := rfl
theorem fromWidthMs (w f d : U64) : Statement (.fromWidthMs w f d) := rfl
theorem freqFromPrescale (p c : U64) : Statement (.freqFromPrescale p c) := rfl
theorem prescaleFromFreq (f c : U64) : Statement (.prescaleFromFreq f c) := rfl
theorem readChannels : Statement .readChannels := rfl
theorem readStatus (i : U64) : Statement (.readStatus i) := rfl
theorem stop : Statement .stop := rfl
theorem illegalOp0 (r : BitVec 28) : Statement (.illegalOp0 r) := rfl
theorem illegalOp7 (r : BitVec 28) : Statement (.illegalOp7 r) := rfl
theorem illegalOpB (r : BitVec 28) : Statement (.illegalOpB r) := rfl
theorem illegalOpC (r : BitVec 28) : Statement (.illegalOpC r) := rfl
theorem illegalOpD (r : BitVec 28) : Statement (.illegalOpD r) := rfl
theorem illegalOpE (r : BitVec 28) : Statement (.illegalOpE r) := rfl
theorem illegalOpF (r : BitVec 28) : Statement (.illegalOpF r) := rfl
theorem illegalRsvd (o : BitVec 4) (r : BitVec 28) : Statement (.illegalRsvd o r) := rfl
theorem edge (r : Bool) (t : I64) : Statement (.edge r t) := rfl
theorem reset : Statement .reset := rfl

end Sys2Proof.Laws.EncodedFormat
end

