-- ==== Sys2Proof/Laws/Turn.lean ====
section
/-! SUPPORT. All a turn of an agent, and so a step, can do: one case per rule that writes state. Invariants are proved case by case
from `turn_cases` and `decStep_frame` and unfold neither `turn` nor `exec`. -/

namespace Sys2Proof.Machine

/-- What a turn can make of a state, by the agent that has it. -/
inductive TurnCase (s : State) : Action → State → Prop where
  /-- the agent takes no step, or an EDGE arrives while stopped -/
  | noStep (a : Action) : TurnCase s a s
  /-- a host command answers and writes nothing -/
  | answered (k : Nat) (w : BitVec 32) (a b c : U64) (r : Response)
      (hch : r.ch = List.replicate s.cfg.channelCount 0 ∨ r.ch = s.store.pubCh) :
      TurnCase s (.host k w a b c) (s.respond r)
  /-- STOP -/
  | stopped (k : Nat) (a b c : U64) :
      TurnCase s (.host k 0x0000000A a b c) (s.setStopped.respond ⟨.ok, 0, 0, List.replicate s.cfg.channelCount 0⟩)
  /-- an edge dropped at a full writer view -/
  | edgeDropped (w : BitVec 65) (hrun : s.stopped = false) (hfull : s.edge.wfree = 0) :
      TurnCase s (.src w) (s.setCnt s.cnt.incEdgeDrop)
  /-- an edge queued -/
  | edgeQueued (w : BitVec 65) (e : EdgeRec) (f : Fifo EdgeRec) (hrun : s.stopped = false) (hpush : s.edge.push e = some f) :
      TurnCase s (.src w) (s.setEdge f)
  | reset : TurnCase s (.rst 1) (s.clear.emit .resetEvt)
  | esyncW2R (k : Nat) (f : Fifo EdgeRec) (h : s.edge.syncW2R k = some f) : TurnCase s (.esyncW2R k) (s.setEdge f)
  | esyncR2W (k : Nat) (f : Fifo EdgeRec) (h : s.edge.syncR2W s.cfg.edgeDepth k = some f) :
      TurnCase s (.esyncR2W k) (s.setEdge f)
  | fsyncW2R (k : Nat) (f : Fifo FrameRec) (h : s.frame.syncW2R k = some f) : TurnCase s (.fsyncW2R k) (s.setFrame f)
  | fsyncR2W (k : Nat) (f : Fifo FrameRec) (h : s.frame.syncR2W s.cfg.frameDepth k = some f) :
      TurnCase s (.fsyncR2W k) (s.setFrame f)
  | decoded (e : EdgeRec) (f : Fifo EdgeRec) (hrun : s.stopped = false) (hpop : s.edge.pop = some (e, f)) :
      TurnCase s .decode (consumeEdge e (s.setEdge f))
  | dispatched (f : FrameRec) (g : Fifo FrameRec) (hrun : s.stopped = false) (hpop : s.frame.pop = some (f, g)) :
      TurnCase s .dispatch (publish f (s.setFrame g))

theorem decodeCmd_stop {w : BitVec 32} {a b c : U64} (h : decodeCmd w a b c = .stop) : w = 0x0000000A := by
  have hw := cmdWord_fields w
  have hz : ∀ op rsvd i, unlessRsvd op rsvd i = .stop → rsvd = 0 ∧ i = .stop := by
    intro op rsvd i h; unfold unlessRsvd at h; split at h <;> simp_all
  unfold decodeCmd at h
  dsimp only at h
  split at h <;> first | cases h | (obtain ⟨h0, h1⟩ := hz _ _ _ h; cases h1)
  next hop =>
    rw [← hw, h0, show cmdOp w = 0xA from BitVec.eq_of_toNat_eq hop]; rfl

/-- A command decodes to an instruction of the command port, which answers and, but for STOP, writes nothing. -/
theorem exec_cmd_cases (w : BitVec 32) (a b c : U64) (k : Nat) (s : State) :
    ∃ t, exec (decodeCmd w a b c) s = .next t ∧ TurnCase s (.host k w a b c) t := by
  have ans : ∀ x : Answer, ∃ t, answer x s = .next t ∧ TurnCase s (.host k w a b c) t :=
    fun x => ⟨_, rfl, .answered _ _ _ _ _ _ (.inl rfl)⟩
  cases h : decodeCmd w a b c
  case stop => exact ⟨_, rfl, decodeCmd_stop h ▸ .stopped _ _ _ _⟩
  case readChannels => exact ⟨_, rfl, .answered _ _ _ _ _ _ (.inr rfl)⟩
  case readStatus i =>
    show ∃ t, execReadStatus i s = .next t ∧ _
    unfold execReadStatus
    split <;> exact ans _
  case edge r ts =>
    exfalso; unfold decodeCmd unlessRsvd at h; dsimp only at h; split at h <;> first | cases h | (split at h <;> cases h)
  case reset =>
    exfalso; unfold decodeCmd unlessRsvd at h; dsimp only at h; split at h <;> first | cases h | (split at h <;> cases h)
  all_goals exact ans _

/-- Every turn answers a next state, and this says which (R300: nothing traps). -/
theorem turn_total (a : Action) (s : State) : ∃ t, turn a s = .next t ∧ TurnCase s a t := by
  have ag : ∀ (o : Option State), (∀ t, o = some t → TurnCase s a t) → ∃ t, runAgent o s = .next t ∧ TurnCase s a t := by
    intro o ho
    rcases runAgent_cases o s with ⟨t, h, e⟩ | ⟨_, e⟩
    · exact ⟨t, e, ho t h⟩
    · exact ⟨s, e, .noStep a⟩
  cases a with
  | host k w a b c =>
    show ∃ t, (if k < s.cfg.hosts then runPort (.cmd w a b c) s else .next s) = .next t ∧ _
    split
    · exact exec_cmd_cases w a b c k s
    · exact ⟨s, rfl, .noStep _⟩
  | src w =>
    show ∃ t, execEdge _ _ s = .next t ∧ _
    unfold execEdge
    split
    · exact ⟨s, rfl, .noStep _⟩
    · next hs =>
      have hs : s.stopped = false := by simpa using hs
      split
      · next h => exact ⟨_, rfl, .edgeDropped w hs (Fifo.push_eq_none.mp h)⟩
      · next f h => exact ⟨_, rfl, .edgeQueued w _ f hs h⟩
  | rst pin =>
    by_cases hp : pin = 1
    · subst hp; exact ⟨_, rfl, .reset⟩
    · refine ⟨s, ?_, .noStep _⟩
      show (match (if pin = 1 then Except.ok Instr.reset else Except.error DecodeError.resetNotAsserted) with
        | .ok i => exec i s | .error _ => .next s) = _
      rw [if_neg hp]
  | esyncW2R k =>
    refine ag _ fun t h => ?_
    obtain ⟨f, hf, rfl⟩ := Option.map_eq_some_iff.mp h
    exact .esyncW2R k f hf
  | esyncR2W k =>
    refine ag _ fun t h => ?_
    obtain ⟨f, hf, rfl⟩ := Option.map_eq_some_iff.mp h
    exact .esyncR2W k f hf
  | fsyncW2R k =>
    refine ag _ fun t h => ?_
    obtain ⟨f, hf, rfl⟩ := Option.map_eq_some_iff.mp h
    exact .fsyncW2R k f hf
  | fsyncR2W k =>
    refine ag _ fun t h => ?_
    obtain ⟨f, hf, rfl⟩ := Option.map_eq_some_iff.mp h
    exact .fsyncR2W k f hf
  | decode =>
    refine ag _ fun t h => ?_
    obtain ⟨hr, e, f, hp, rfl⟩ := decodeStep_eq_some h
    exact .decoded e f hr hp
  | dispatch =>
    refine ag _ fun t h => ?_
    obtain ⟨hr, e, f, hp, rfl⟩ := dispatchStep_eq_some h
    exact .dispatched e f hr hp

theorem turn_cases {a : Action} {s t : State} (h : turn a s = .next t) : TurnCase s a t := by
  obtain ⟨t', h', hc⟩ := turn_total a s
  rw [h] at h'
  cases h'
  exact hc

/-- All a step can do: the turn of the environment's choice, in the state in which the turn begins. -/
theorem step_cases {s t : State} (h : step s = .next t) : TurnCase s.taken s.nextAction t := turn_cases (step_eq_next h).2

/-! ### What the decoder leaves alone -/

/-- DEC_STEP writes the decoder, the frame FIFO, the counters and HIST, and nothing else (R172 to R178). -/
theorem decStep_frame (c : CycleRec) (s : State) :
    decStep c s = { s with dec := (decStep c s).dec, frame := (decStep c s).frame, cnt := (decStep c s).cnt,
                           hist := (decStep c s).hist } := by
  have fp : ∀ f (u : State), framePush f u = { u with frame := (framePush f u).frame, cnt := (framePush f u).cnt } := by
    intro f u; rcases framePush_cases f u with ⟨_, h⟩ | ⟨_, h⟩ <;> rw [h] <;> rfl
  rcases decStep_cases c s with ⟨_, h⟩ | ⟨_, _, h⟩ | ⟨_, _, _, h⟩ | ⟨_, _, _, h⟩ <;> rw [h]
  · rfl
  · rfl
  · rcases capture_cases c s with ⟨_, h⟩ | ⟨_, _, h⟩ | ⟨_, _, h⟩ <;> rw [h]
    · rfl
    · unfold complete captureStore; rw [fp]; rfl
    · rfl

/-- A consumed edge writes the assembler, the decoder, the frame FIFO, the counters and HIST, and nothing else (R170). -/
theorem consumeEdge_frame (e : EdgeRec) (s : State) :
    consumeEdge e s = { s with asm := (consumeEdge e s).asm, dec := (consumeEdge e s).dec, frame := (consumeEdge e s).frame,
                               cnt := (consumeEdge e s).cnt, hist := (consumeEdge e s).hist } := by
  have h1 := (asmStep_frame e s).1
  rcases consumeEdge_cases e s with ⟨_, h⟩ | ⟨c, _, h⟩ <;> rw [h]
  · rw [h1]
  · rw [decStep_frame]; generalize decStep _ _ = u; rw [h1]

end Sys2Proof.Machine
end

