-- ==== Sys2Proof/Tests/Slice0.lean ====
section
/-! SUPPORT. Tests. Expected values come from spec/95_test_vectors.md (its section is named at each group) or are worked out by hand
from the rule named; the theorems named witness_… meet the hypotheses of the obligation of that name. -/

namespace Sys2Proof.Tests

open Sys2Proof.Machine

/-! ### Helpers -/

/-- The next state of a result; a test that stops would read the reset state. -/
def stateOf : Result → State
  | .next t => t
  | .fault _ | .refused _ => State.reset

/-- STATUS code, R0 and R1 of an instruction's response in the reset state of a configuration. -/
def reply (i : Instr) (cfg : Config := Config.block) : Option (Nat × Nat × Nat) :=
  (stateOf (exec i (State.powerOn cfg))).rsp.map fun r => (r.status.code.toNat, r.r0.toNat, r.r1.toNat)

def decodesTo (p : PortWord) (i : Instr) : Bool :=
  match decode p with
  | .ok j => j == i
  | .error _ => false

/-- This block with two channels, an edge FIFO of two and a frame FIFO of one. -/
def small : Config := { Config.block with channelCount := 2, maxChannels := 2, edgeDepth := 2, frameDepth := 1 }

/-- A block in the middle of a frame, with one edge that completes it, and one frame waiting. -/
def busy : State :=
  { State.powerOn small with
    edge := ⟨[⟨false, 1800⟩], 1, 1⟩
    asm := ⟨.high, 0, 300, 300⟩
    dec := ⟨.capturing, 1, 9, [1500, 0]⟩
    frame := ⟨[⟨5, [1000, 1100]⟩], 1, 0⟩ }

/-- A state whose next choice is `a`. -/
def facing (a : Action) (s : State) : State := { s with pending := [a] }

def away : Config := { Config.block with roundTies := .away }

/-! ### WellFormed: a term each check refuses -/

theorem test_wf_refuses_rsvd_zero : (Instr.illegalRsvd 0x1 0).wf = false := by decide
theorem test_wf_refuses_unassigned_op : (Instr.illegalRsvd 0x7 1).wf = false := by decide
theorem test_wf_accepts_rsvd : (Instr.illegalRsvd 0xA 0x8000000).wf = true := by decide

/-! ### Decoding: every row's word (95_test_vectors.md section 2.1) -/

theorem test_decode_width : decodesTo (.cmd 0x00000001 4000 100 7) (.width 4000 100) = true := by decide
theorem test_decode_fromWidth : decodesTo (.cmd 0x00000002 100 4000 7) (.fromWidth 100 4000) = true := by decide
theorem test_decode_widthToMs : decodesTo (.cmd 0x00000003 50000000000 307 7) (.widthToMs 50000000000 307) = true := by decide
theorem test_decode_fromWidthMs : decodesTo (.cmd 0x00000004 1 2 3) (.fromWidthMs 1 2 3) = true := by decide
theorem test_decode_freqFromPrescale : decodesTo (.cmd 0x00000005 121 25000000 7) (.freqFromPrescale 121 25000000) = true := by
  decide
theorem test_decode_prescaleFromFreq : decodesTo (.cmd 0x00000006 5 25000000 7) (.prescaleFromFreq 5 25000000) = true := by decide
theorem test_decode_readChannels : decodesTo (.cmd 0x00000008 1 2 3) .readChannels = true := by decide
theorem test_decode_readStatus : decodesTo (.cmd 0x00000009 18 2 3) (.readStatus 18) = true := by decide
theorem test_decode_stop : decodesTo (.cmd 0x0000000A 1 2 3) .stop = true := by decide
theorem test_decode_illegalOp0 : decodesTo (.cmd 0x00000000 1 2 3) (.illegalOp0 0) = true := by decide
theorem test_decode_illegalOp7 : decodesTo (.cmd 0xFFFFFFF7 1 2 3) (.illegalOp7 0xFFFFFFF) = true := by decide
theorem test_decode_illegalOpB : decodesTo (.cmd 0x0000000B 1 2 3) (.illegalOpB 0) = true := by decide
theorem test_decode_illegalOpC : decodesTo (.cmd 0x0000000C 1 2 3) (.illegalOpC 0) = true := by decide
theorem test_decode_illegalOpD : decodesTo (.cmd 0x1000000D 1 2 3) (.illegalOpD 0x1000000) = true := by decide
theorem test_decode_illegalOpE : decodesTo (.cmd 0x0000000E 1 2 3) (.illegalOpE 0) = true := by decide
theorem test_decode_illegalOpF : decodesTo (.cmd 0x0000000F 1 2 3) (.illegalOpF 0) = true := by decide
theorem test_decode_illegalRsvd_low : decodesTo (.cmd 0x0000001A 1 2 3) (.illegalRsvd 0xA 1) = true := by decide
theorem test_decode_illegalRsvd_high : decodesTo (.cmd 0x80000001 1 2 3) (.illegalRsvd 0x1 0x8000000) = true := by decide
theorem test_decode_edge_fall : decodesTo (.edge 0x0FFFFFFFFFFFFFFFF) (.edge false (-1)) = true := by decide
theorem test_decode_edge_rise : decodesTo (.edge 0x1000000000000012C) (.edge true 300) = true := by decide
theorem test_decode_reset : decodesTo (.rst 1) .reset = true := by decide
theorem test_decode_pin_low : (match decode (.rst 0) with | .ok _ => false | .error e => e == .resetNotAsserted) = true := by decide

theorem test_tableWord_width : decodeTableWord 32 1 = some (.width 0 0) := by decide
theorem test_tableWord_edge : decodeTableWord 72 0x1000000000000012C = some (.edge true 300) := by decide
theorem test_tableWord_reset : decodeTableWord 8 1 = some .reset := by decide
/-- The step after withFetchWord runs the word, here as the first instruction after reset. -/
theorem test_fetch_stop : (stateOf (step (State.reset.withFetchWord 32 0xA))).stopped = true := by decide

/-! ### The codec (section 2.7) -/

theorem test_width_spans : reply (.width 4000 100) = some (0, 196, 0) := by decide
theorem test_width_off_wins : reply (.width 4096 4096) = some (0, 0, 0) := by decide
theorem test_fromWidth_spans : reply (.fromWidth 4094 4095) = some (0, 4095, 4093) := by decide
theorem test_fromWidth_delay_range : reply (.fromWidth 5 4096) = some (2, 0, 0) := by decide
theorem test_widthToMs_tie_even : reply (.widthToMs 50000000000 1) = some (0, 4882812, 0) := by decide
theorem test_widthToMs_overflow : reply (.widthToMs 1 4096) = some (6, 0, 0) := by decide
theorem test_fromWidthMs_ticks : reply (.fromWidthMs 1000000000 50000000000 19500000000) = some (0, 3994, 103) := by decide
theorem test_fromWidthMs_tie_away : reply (.fromWidthMs 2500000000 244140625 0) away = some (0, 0, 3) := by decide
theorem test_freqFromPrescale_121 : reply (.freqFromPrescale 121 25000000) = some (0, 50028816598, 0) := by decide
theorem test_freqFromPrescale_range_first : reply (.freqFromPrescale 300 0) = some (5, 0, 0) := by decide
theorem test_prescaleFromFreq_50 : reply (.prescaleFromFreq 50000000000 25000000) = some (0, 121, 0) := by decide
theorem test_prescaleFromFreq_minus_one : reply (.prescaleFromFreq 12208000000000 25000000) = some (5, 0, 0) := by decide

/-! ### The ChannelStore and control (sections 2.5, 2.6) -/

theorem test_readChannels_negative_ts :
    (stateOf (exec .readChannels { State.powerOn small with store := ⟨3, -5, [1, 2]⟩ })).rsp =
      some ⟨.ok, 3, 0xFFFFFFFFFFFFFFFB, [1, 2]⟩ := by decide
theorem test_readStatus_state_word :
    (stateOf (exec (.readStatus 6) { State.reset with dec := ⟨.capturing, 6, 0, []⟩, asm := ⟨.high, 0, 0, 0⟩ })).rsp.map (·.r0) =
      some 0x60A := by decide
theorem test_readStatus_range : reply (.readStatus 0xFFFFFFFFFFFFFFFF) = some (2, 0, 0) := by decide
theorem test_stop_sets : (stateOf (exec .stop State.reset)).stopped = true := by decide
theorem test_illegalOp7_status : reply (.illegalOp7 0) = some (1, 0, 0) := by decide
theorem test_illegalRsvd_not_examined : reply (.illegalRsvd 0x3 1) = some (1, 0, 0) := by decide

/-! ### EDGE, RESET and the agents' steps (sections 2.2 to 2.5, 2.9) -/

theorem test_edge_queued : (stateOf (exec (.edge false 0) State.reset)).edge = ⟨[⟨false, 0⟩], 0, 15⟩ := by decide
theorem test_edge_dropped_at_stale_view :
    (stateOf (exec (.edge true 7) { State.reset with edge := ⟨[], 0, 0⟩ })).cnt = ⟨0, 0, 1, 0, 0, 0⟩ := by decide
theorem test_reset_clears_stopped_keeps_hist :
    ((stateOf (exec .reset { busy with stopped := true, hist := [.frameEvt 1 0] })).hist,
      (stateOf (exec .reset { busy with stopped := true })).stopped) = ([.frameEvt 1 0, .resetEvt], false) := by decide
theorem test_decode_wraps_low_length :
    (stateOf (turn .decode { State.reset with
      edge := ⟨[⟨true, 9223372036854775807⟩], 1, 15⟩, asm := ⟨.low, -9223372036854775808, 0, 0⟩ })).asm.ll = -1 := by decide
theorem test_decode_low_limit_is_noise :
    (decStep ⟨0, 600, 600, 1500⟩ State.reset).cnt.noise = 1 := by decide
theorem test_decode_length_value :
    (decStep ⟨5300, 300, 5600, 1500⟩ { State.powerOn { small with valueSel := .length } with
      dec := ⟨.capturing, 0, 0, [0, 0]⟩ }).dec.fbCh = [1800, 0] := by decide
theorem test_dispatch_wraps_seq :
    (stateOf (turn .dispatch { busy with store := ⟨0xFFFFFFFFFFFFFFFF, 0, [0, 0]⟩ })).hist = [.frameEvt 0 5] := by decide
theorem test_drain_publishes_then_drops :
    ((drain busy).store.pubTs, (drain busy).cnt.frameDrop, (drain busy).cnt.frame) = (5, 1, 1) := by decide

/-! ### The textual form (30_encoding.md R113, R114) -/

theorem test_literal_scaled :
    assemble Config.block (.prescaleFromFreq (.dec 500 1) (.int 25000000)) = some (.prescaleFromFreq 0x0000000BA43B7400 0x17D7840) := by
  decide
theorem test_line_edge : parseLine "EDGE R, -5".toList = some (.items [.edge true (-5)]) := by decide
/-- Log 17, the model's choice. -/
theorem test_line_edge_decimal_refused : parseLine "EDGE R, 5.0".toList = none := by decide
/-- Log 18, the model's choice. -/
theorem test_literal_needs_digits_on_both_sides : literal "5.".toList = none ∧ literal ".5".toList = none := by decide

/-- STATUS code and R0 that stand after a line of text in the reset state. -/
def lineReply (l : String) : Option (Nat × Nat) :=
  ((parseLine l.toList).bind fun l => runLine l State.reset).bind fun t => t.rsp.map fun r => (r.status.code.toNat, r.r0.toNat)

/-- Section 3.10. -/
theorem test_set_freq : lineReply "SET_FREQ 50.0, 25000000" = some (0, 50028816598) := by decide
/-- Section 2.7: the first command's error ends SET_FREQ. -/
theorem test_set_freq_error : lineReply "SET_FREQ 23, 25000000" = some (5, 0) := by decide

/-! ### Witnesses: encoding -/

theorem witness_DecodeEncodeAgree :
    (Instr.illegalRsvd 0xA 1).wf = true ∧ (Instr.fromWidthMs 1 2 3).wf = true ∧ (Instr.edge true (-1)).wf = true := by decide

theorem witness_IllegalWordsAnswerIllegalOp :
    (0xF : BitVec 32).toNat % 16 ∈ [0x0, 0x7, 0xB, 0xC, 0xD, 0xE, 0xF] ∧ (0x11 : BitVec 32).toNat / 16 ≠ 0 := by decide

theorem witness_IllegalRowsComplete :
    Instr.illegalRsvd 1 1 ∈ [Instr.illegalOp0 1, .illegalOp7 1, .illegalOpB 1, .illegalOpC 1, .illegalOpD 1, .illegalOpE 1,
      .illegalOpF 1, .illegalRsvd 1 1] := by decide

/-- With S = 9: 18446744073.709551615 fits exactly, ten fraction digits do not assemble, 2^64 does not. -/
theorem witness_DecimalLiteralsAreExact :
    (9 ≤ Config.block.decScale ∧ 18446744073709551615 * 10 ^ (Config.block.decScale - 9) ≤ 2 ^ 64 - 1) ∧
    Config.block.decScale < 10 ∧
    (9 ≤ Config.block.decScale ∧ 2 ^ 64 - 1 < 18446744073709551616 * 10 ^ (Config.block.decScale - 9)) := by decide

/-! ### Witnesses: the step -/

theorem witness_StepRunsDecodedInstruction :
    busy.cfg.legal ∧
    ((facing (.host 1 0xA 0 0 0) busy).nextAction = .host 1 0xA 0 0 0 ∧ 1 < busy.cfg.hosts ∧
      decodesTo (.cmd 0xA 0 0 0) .stop = true) ∧
    ((facing (.src 5) busy).nextAction = .src 5 ∧ decodesTo (.edge 5) (.edge false 5) = true) ∧
    ((facing (.rst 1) busy).nextAction = .rst 1 ∧ decodesTo (.rst 1) .reset = true) := by decide

theorem witness_IllegalConfigIsRefused :
    ¬ (State.powerOn { Config.block with channelCount := 257 }).cfg.legal ∧
    ¬ (State.powerOn { Config.block with lowLimit := 4000 }).cfg.legal := by decide

theorem witness_LegalBlockAlwaysSteps : State.reset.cfg.legal ∧ busy.cfg.legal := by decide

/-- A step as the hypothesis of the statements about every step. -/
theorem witness_step : step (facing .dispatch busy) = .next (stateOf (step (facing .dispatch busy))) := rfl

theorem witness_DisabledTurnsChangeNothing :
    ({ busy with stopped := true }.stopped = true ∧ State.reset.edge.rvis = 0 ∧ State.reset.frame.rvis = 0) ∧
    (0 < busy.edge.rvis ∧ busy.edge.q.length < 2) ∧ (0 < busy.edge.wfree ∧ busy.cfg.edgeDepth < 2 + busy.edge.q.length) ∧
    (0 < busy.frame.rvis ∧ busy.frame.q.length < 2) ∧ (0 < State.reset.frame.wfree ∧ busy.cfg.frameDepth < 1 + busy.frame.q.length) := by
  decide

theorem witness_ParametersNeverChange : (stateOf (step (facing (.rst 1) busy))).cfg = small := by decide

/-! ### Witnesses: the codec, at the boundaries of each clause -/

theorem witness_RoundNearestIsTheNearest :
    0 < 2 ∧ roundNearest .even 5 2 = 2 ∧ roundNearest .away 5 2 = 3 ∧ roundNearest .even 7 2 = 4 := by decide

theorem witness_WidthInvertsFromWidth : (4096 : U64).toNat ≤ 4096 ∧ (4095 : U64).toNat ≤ 4095 := by decide

theorem witness_WidthToMsResult :
    reply (.widthToMs 0 4097) = some (3, 0, 0) ∧ reply (.widthToMs 1 4097) = some (2, 0, 0) ∧
    reply (.widthToMs 50000000000 4096) = some (0, 20000000000, 0) := by decide

theorem witness_FromWidthMsResult :
    reply (.fromWidthMs 99999000000000 0 99999000000000) = some (3, 0, 0) ∧
    reply (.fromWidthMs 20004882812 50000000000 20000000000) = some (2, 0, 0) ∧
    reply (.fromWidthMs 19990000000 50000000000 0) = some (0, 0, 4094) := by decide

theorem witness_FreqFromPrescaleResult :
    reply (.freqFromPrescale 256 25000000) = some (5, 0, 0) ∧
    reply (.freqFromPrescale 0 25000000) { Config.block with prescaleMin := 1 } = some (5, 0, 0) ∧
    reply (.freqFromPrescale 3 0) = some (4, 0, 0) ∧ reply (.freqFromPrescale 255 25000000) = some (0, 23841857910, 0) := by decide

theorem witness_PrescaleFromFreqResult :
    reply (.prescaleFromFreq 0 0) = some (3, 0, 0) ∧ reply (.prescaleFromFreq 5000000000 0) = some (4, 0, 0) ∧
    reply (.prescaleFromFreq 23000000000 25000000) = some (5, 0, 0) := by decide

theorem witness_FrequencyFallsAsPrescaleRises :
    State.reset.cfg.prescaleMin ≤ (120 : U64).toNat ∧ (120 : U64).toNat < (121 : U64).toNat ∧
    (121 : U64).toNat ≤ State.reset.cfg.prescaleMax ∧ (25000000 : U64) ≠ 0 ∧
    reply (.freqFromPrescale 120 25000000) = some (0, 50442277893, 0) := by decide

theorem witness_FrequencyRoundTripSettles : busy.cfg ≠ Config.block ∧ State.reset.cfg = Config.block := by decide

theorem witness_CodecIsPure :
    Instr.widthToMs 50000000000 307 ∈ [Instr.width 50000000000 307, .fromWidth 50000000000 307, .widthToMs 50000000000 307,
      .fromWidthMs 50000000000 307 0, .freqFromPrescale 50000000000 307, .prescaleFromFreq 50000000000 307] ∧
    State.reset.cfg = Config.block := by decide

/-! ### Witnesses: control and the ChannelStore -/

theorem witness_StateWordFields :
    State.reset.dec.chIdx < 2 ^ 9 ∧ ({ State.reset with dec := ⟨.capturing, 511, 0, []⟩ }).dec.chIdx < 2 ^ 9 := by decide

theorem witness_ErrorsWriteNothing :
    (Instr.readStatus 19).format = .cmd ∧ reply (.readStatus 19) = some (2, 0, 0) := by decide

theorem witness_HostsWriteOnlyStopped :
    (facing (.host 1 0xA 1 2 3) busy).nextAction = .host 1 0xA 1 2 3 ∧
    (stateOf (step (facing (.host 1 0xA 1 2 3) busy))).stopped = true := by decide

theorem witness_DispatchPublishesOldestFrame :
    busy.stopped = false ∧ 0 < busy.frame.rvis ∧ busy.frame.q = ⟨5, [1000, 1100]⟩ :: [] := by decide

theorem witness_SnapshotWrittenOnlyByDispatch : (stateOf (step (facing .dispatch busy))).store ≠ busy.store := by decide

theorem witness_SeqCountsPublishes :
    ∃ t, Host.Core.run Sys2Proof.core 1 (facing .dispatch busy) = .next t ∧ t.hist = busy.hist ++ [.frameEvt 1 5] ∧
      Event.resetEvt ∉ [Event.frameEvt 1 5] := ⟨_, rfl, by decide, by decide⟩

/-! ### Witnesses: edges, FIFOs and synchronizers -/

theorem witness_EdgeIsQueuedOrDropped :
    (stateOf (exec (.edge true 7) busy)).edge = ⟨[⟨false, 1800⟩, ⟨true, 7⟩], 1, 0⟩ ∧
    (stateOf (exec (.edge false 9) { busy with stopped := true })).edge = busy.edge := by decide

/-- The section 2.2 draws: EQ_WFREE from 0 to 1 at |EQ| = 15 of 16, and the reader's view to |EQ|. -/
theorem witness_SynchronizersWriteTheirView :
    (busy.edge.rvis ≤ 1 ∧ 1 ≤ busy.edge.q.length) ∧ (busy.edge.wfree ≤ 1 ∧ 1 + busy.edge.q.length ≤ busy.cfg.edgeDepth) ∧
    (busy.frame.rvis ≤ 1 ∧ 1 ≤ busy.frame.q.length) ∧ (busy.frame.wfree ≤ 0 ∧ 0 + busy.frame.q.length ≤ busy.cfg.frameDepth) ∧
    (stateOf (turn (.esyncR2W 1) { State.reset with edge := ⟨List.replicate 15 ⟨false, 0⟩, 0, 0⟩ })).edge.wfree = 1 := by decide

theorem busy_inv : busy.Inv := ⟨by decide, by decide, by decide, by decide, by decide, by decide⟩

theorem busy_inRange : busy.InRange :=
  ⟨by simp [busy]; decide, by simp [busy]; decide, .inl rfl⟩

theorem witness_ReadersWaitOnlyForTheirView :
    busy.Inv ∧ (decodeStep busy).isSome = true ∧ (dispatchStep busy).isSome = true := ⟨busy_inv, by decide, by decide⟩

theorem witness_QueuesAreFirstInFirstOut :
    (facing .decode busy).nextAction ≠ .rst 1 ∧ (stateOf (step (facing .decode busy))).edge.q = [] ∧
    (stateOf (step (facing (.src 7) busy))).edge.q = busy.edge.q ++ [⟨false, 7⟩] := by decide

theorem witness_DrainEmptiesBothQueues : busy.Inv ∧ busy.stopped = false := ⟨busy_inv, by decide⟩

/-- A run of this block with one frame queued: it is synchronized, dispatched, and then the synchronizers go round. -/
def fairSched : Nat → Action
  | 0 => .fsyncW2R 1
  | 1 => .dispatch
  | n + 2 => match n % 4 with
    | 0 => .esyncW2R 0
    | 1 => .esyncR2W 2
    | 2 => .fsyncW2R 0
    | _ => .fsyncR2W 1

def queuedOne : State := { State.powerOn small with frame := ⟨[⟨5, [1000, 1100]⟩], 0, 0⟩ }

def seenOne : State := { queuedOne with frame := ⟨[⟨5, [1000, 1100]⟩], 1, 0⟩ }

def publishedOne (wfree : Nat) : State :=
  { queuedOne with frame := ⟨[], 0, wfree⟩, store := ⟨1, 5, [1000, 1100]⟩, hist := [.frameEvt 1 5] }

def fairRun : Nat → State
  | 0 => queuedOne
  | 1 => seenOne
  | 2 | 3 | 4 | 5 => publishedOne 0
  | _ + 6 => publishedOne 1

theorem fairRun_late (n : Nat) : ∃ w, fairRun (n + 2) = publishedOne w := by
  match n with
  | 0 | 1 | 2 | 3 => exact ⟨0, rfl⟩
  | _ + 4 => exact ⟨1, rfl⟩

theorem fairRun_edges (n : Nat) : (fairRun n).edge.q = [] := by
  match n with
  | 0 | 1 | 2 | 3 | 4 | 5 | _ + 6 => rfl

theorem fairRun_isRun : IsRun fairSched fairRun := by
  intro n
  match n with
  | 0 | 1 | 2 | 3 | 4 | 5 => exact ⟨by decide, rfl⟩
  | k + 6 =>
    refine ⟨by show small.legal; decide, ?_⟩
    show turn (match (k + 4) % 4 with
      | 0 => Action.esyncW2R 0 | 1 => .esyncR2W 2 | 2 => .fsyncW2R 0 | _ => .fsyncR2W 1) (publishedOne 1) = .next (publishedOne 1)
    split <;> rfl

theorem witness_EveryQueuedFrameIsPublished :
    FairRun fairSched fairRun ∧ (fairRun 0).Inv ∧ (∀ n, (fairRun n).stopped = false) ∧ (∀ n, fairSched n ≠ .rst 1) ∧
    (⟨5, [1000, 1100]⟩ : FrameRec) ∈ (fairRun 0).frame.q := by
  refine ⟨⟨fairRun_isRun, ⟨?_, ?_⟩, ?_, ⟨?_, ?_⟩, ?_⟩, ⟨by decide, by decide, by decide, by decide, by decide, by decide⟩, ?_, ?_, by decide⟩
  · intro v n h
    have := h n (Nat.le_refl n)
    rw [fairRun_edges] at this; subst this
    exact ⟨4 * n + 2, by omega, by simp [fairSched]⟩
  · intro w n h
    have := h n (Nat.le_refl n)
    rw [fairRun_edges] at this
    have hc : (fairRun n).cfg.edgeDepth = 2 := by match n with | 0 | 1 | 2 | 3 | 4 | 5 | _ + 6 => rfl
    rw [hc] at this; subst this
    exact ⟨4 * n + 1 + 2, by omega, by simp [fairSched, Nat.add_mod]⟩
  · intro n h
    have := h (n + 2) (by omega)
    obtain ⟨w, hw⟩ := fairRun_late n
    rw [hw] at this
    exact absurd this (by simp [decodeStep, publishedOne, queuedOne, State.powerOn, Fifo.pop])
  · intro v n h
    have := h (n + 2) (by omega)
    obtain ⟨w, hw⟩ := fairRun_late n
    rw [hw] at this
    obtain rfl : 0 = v := this
    exact ⟨4 * n + 2 + 2, by omega, by simp [fairSched, Nat.add_mod]⟩
  · intro v n h
    have := h (n + 2) (by omega)
    obtain ⟨w, hw⟩ := fairRun_late n
    rw [hw] at this
    obtain rfl : 1 = v := this
    exact ⟨4 * n + 3 + 2, by omega, by simp [fairSched, Nat.add_mod]⟩
  · intro n h
    have := h (n + 2) (by omega)
    obtain ⟨w, hw⟩ := fairRun_late n
    rw [hw] at this
    exact absurd this (by simp [dispatchStep, publishedOne, Fifo.pop])
  · intro n
    match n with
    | 0 | 1 | 2 | 3 | 4 | 5 | _ + 6 => rfl
  · intro n
    match n with
    | 0 | 1 => simp [fairSched]
    | k + 2 =>
      show (match k % 4 with
        | 0 => Action.esyncW2R 0 | 1 => .esyncR2W 2 | 2 => .fsyncW2R 0 | _ => .fsyncR2W 1) ≠ .rst 1
      split <;> simp

/-! ### Witnesses: the assembler and the decoder -/

/-- A state whose assembler is in a phase and which sees one edge. -/
def inPhase (p : AsmPhase) (rising : Bool) : State :=
  { busy with asm := ⟨p, 0, 300, 300⟩, edge := ⟨[⟨rising, 5300⟩], 1, 0⟩ }

/-- The common hypotheses and each of the six clauses' own. -/
theorem witness_AssemblerRules :
    ∀ p ∈ [AsmPhase.empty, .low, .high], ∀ r ∈ [false, true],
      (inPhase p r).stopped = false ∧ 0 < (inPhase p r).edge.rvis ∧ (inPhase p r).edge.q = ⟨r, 5300⟩ :: [] ∧
      (inPhase p r).asm.phase = p := by decide

theorem witness_MonotoneLengthsDoNotWrap :
    (-9223372036854775808 : I64).toInt ≤ (-1 : I64).toInt ∧ (-1 : I64).toInt - (-9223372036854775808 : I64).toInt < 2 ^ 63 := by decide

/-- Section 2.4's boundaries: low_length = LOW_LIMIT, and high_length = LOW_LIMIT. -/
theorem witness_NoiseIsRejectedFirst :
    (busy.cfg.lowLimit : Int) ≤ (⟨0, 600, 600, 1500⟩ : CycleRec).lowLength.toInt ∧
    (⟨0, 300, 300, 600⟩ : CycleRec).highLength.toInt ≤ (busy.cfg.lowLimit : Int) := by decide

theorem witness_SyncRestartsDecoding : IsSyncCycle busy.cfg ⟨7, 300, 307, 4000⟩ ∧ IsSyncCycle busy.cfg ⟨10, -5, 5, 5005⟩ := by decide

theorem witness_ChannelCycleIsIgnoredOrStored :
    IsChannelCycle busy.cfg ⟨0, 599, 599, 601⟩ ∧ State.reset.dec.state = .idle ∧
    IsChannelCycle busy.cfg ⟨0, 300, 300, 3999⟩ ∧ busy.dec.state = .capturing ∧
    ({ busy with dec := ⟨.capturing, 0, 9, [0, 0]⟩ }).dec.chIdx ≠ busy.cfg.channelCount - 1 := by decide

theorem witness_LastChannelCompletesFrame :
    IsChannelCycle busy.cfg ⟨17900, 300, 18200, 1500⟩ ∧ busy.dec.state = .capturing ∧ busy.dec.chIdx < busy.cfg.maxChannels ∧
    busy.dec.chIdx = busy.cfg.channelCount - 1 ∧ busy.frame.wfree = 0 ∧ 0 < ({ busy with frame := ⟨[], 0, 1⟩ }).frame.wfree := by
  decide

/-- M = 1, N = 2, at index 1. -/
def narrow : State := { busy with cfg := { small with maxChannels := 1 }, dec := ⟨.capturing, 1, 9, [1500]⟩ }

theorem witness_OverflowDropsFrame :
    IsChannelCycle narrow.cfg ⟨0, 300, 300, 1500⟩ ∧ narrow.dec.state = .capturing ∧ narrow.cfg.maxChannels ≤ narrow.dec.chIdx ∧
    (decStep ⟨0, 300, 300, 1500⟩ narrow).hist = [.ovfEvt 9] := by decide

theorem witness_OverflowNeedsMoreChannelsThanBuffer :
    busy.Inv ∧ busy.cfg.channelCount ≤ busy.cfg.maxChannels ∧ (facing .decode busy).nextAction ≠ .rst 1 := by
  exact ⟨busy_inv, by decide, by decide⟩

theorem witness_TooFewBuffersNeverQueueAFrame :
    narrow.cfg.maxChannels < narrow.cfg.channelCount ∧ narrow.cfg.legal ∧
    (stateOf (step (facing .decode narrow))).frame.q = narrow.frame.q := by decide

theorem witness_SyncAndChannelsMakeOneFrame :
    small.legal ∧ small.channelCount ≤ small.maxChannels ∧ 0 < (State.powerOn small).frame.wfree ∧
    IsSyncCycle small ⟨0, 300, 300, 5000⟩ ∧
    [(⟨5300, 300, 5600, 601⟩ : CycleRec), ⟨6201, 300, 6501, 3999⟩].length = small.channelCount ∧
    (∀ c ∈ [(⟨5300, 300, 5600, 601⟩ : CycleRec), ⟨6201, 300, 6501, 3999⟩], IsChannelCycle small c) := by decide

/-! ### Witnesses: STOPPED, events, counters and invariants -/

theorem witness_StoppedSetByStopClearedByReset :
    (stateOf (step (facing (.host 0 0xA 1 2 3) busy))).stopped = true ∧
    (stateOf (step (facing (.rst 1) { busy with stopped := true }))).stopped = false := by decide

theorem witness_StoppedFreezesPipeline :
    ({ busy with stopped := true }).stopped = true ∧ (facing (.src 5) busy).nextAction ≠ .rst 1 ∧
    (stateOf (step (facing (.src 5) { busy with stopped := true }))).edge = busy.edge := by decide

theorem witness_AtMostOneEventPerStep :
    (stateOf (step (facing .dispatch busy))).hist = [.frameEvt 1 5] ∧ (stateOf (step (facing .decode narrow))).hist = [.ovfEvt 9] ∧
    (stateOf (step (facing (.rst 1) busy))).hist = [.resetEvt] := by decide

theorem witness_CountersHaveOneWriter :
    (stateOf (step (facing .decode busy))).cnt = ⟨0, 0, 0, 1, 0, 1⟩ ∧
    (stateOf (step (facing (.src 5) { busy with edge := ⟨[], 0, 0⟩ }))).cnt = ⟨0, 0, 1, 0, 0, 0⟩ := by decide

theorem witness_StepKeepsInvariant : (facing .decode busy).Inv ∧ ∃ t, step (facing .decode busy) = .next t :=
  ⟨⟨by decide, by decide, by decide, by decide, by decide, by decide⟩, _, rfl⟩

theorem witness_StepKeepsChannelsInRange : busy.InRange ∧ busy.cfg.valueSel = .high := ⟨busy_inRange, by decide⟩

theorem witness_SetFreqRunsBothCommands :
    dec64Operand Config.block (.dec 500 1) = some 50000000000 ∧ intOperand Config.block (.int 25000000) = some 25000000 ∧
    reply (.prescaleFromFreq 50000000000 25000000) = some (0, 121, 0) ∧
    reply (.prescaleFromFreq 23000000000 25000000) = some (5, 0, 0) ∧
    dec64Operand Config.block (.dec 1 10) = none ∧ intOperand Config.block (.int (-1)) = none := by decide

end Sys2Proof.Tests
end

