-- ==== Sys2Proof/Proofs/Scope.lean ====
section
/-! Proofs of the statements of 00_scope.md: the parameters (R8, R9), the rounding (R13) and the step (R15, R16). -/

namespace Sys2Proof.Machine

/-! ### The step (R9, R15, R16, R100) -/

/-- Rule R9: outside the table of R8 the machine has no step. -/
theorem step_of_not_legal {s : State} (h : ¬ s.cfg.legal) : step s = .refused .illegalConfig := if_neg h

theorem runPort_of_decode {p : PortWord} {i : Instr} {s : State} (h : decode p = .ok i) : runPort p s = exec i s := by
  simp [runPort, h]

/-- Rule R16: there is a host `HOST_k` for `k < H`. -/
theorem turn_host_of_lt {k : Nat} {w : BitVec 32} {a b c : U64} {s : State} (h : k < s.cfg.hosts) :
    turn (.host k w a b c) s = runPort (.cmd w a b c) s := if_pos h

@[simp] theorem turn_src (w : BitVec 65) (s : State) : turn (.src w) s = runPort (.edge w) s := rfl

@[simp] theorem turn_rst (pin : BitVec 1) (s : State) : turn (.rst pin) s = runPort (.rst pin) s := rfl

/-- A step whose chosen turn is that of a port runs what the port's word decodes to. -/
theorem step_eq_exec {s : State} {i : Instr} {p : PortWord} (hl : s.cfg.legal)
    (hturn : turn s.nextAction s.taken = runPort p s.taken) (hdec : decode p = .ok i) : step s = exec i s.taken := by
  rw [step_of_legal hl, hturn, runPort_of_decode hdec]

/-- Settles O8: each port's turn is `runPort` of its word. -/
theorem stepRunsDecodedInstruction : Obligations.StepRunsDecodedInstruction := by
  intro s i hl
  refine ⟨fun k w a b c hact hk hdec => ?host, fun w hact hdec => ?src, fun p hact hdec => ?rst⟩
  case host =>
    have hk' : k < s.taken.cfg.hosts := by rwa [State.taken_cfg]
    exact step_eq_exec hl (by rw [hact, turn_host_of_lt hk']) hdec
  case src => exact step_eq_exec hl (by rw [hact, turn_src]) hdec
  case rst => exact step_eq_exec hl (by rw [hact, turn_rst]) hdec

/-- Settles O9. -/
theorem illegalConfigIsRefused : Obligations.IllegalConfigIsRefused := fun _ h => step_of_not_legal h

/-! ### The parameters (R8) -/

@[simp] theorem consumeEdge_cfg (e : EdgeRec) (s : State) : (consumeEdge e s).cfg = s.cfg := by
  rw [consumeEdge_frame]

@[simp] theorem publish_cfg (f : FrameRec) (s : State) : (publish f s).cfg = s.cfg := rfl

/-- No turn writes the parameters, whichever agent has it. -/
theorem TurnCase.cfg_eq {s t : State} {a : Action} (h : TurnCase s a t) : t.cfg = s.cfg := by
  cases h with
  | decoded e f _ _ => rw [consumeEdge_cfg, State.setEdge_cfg]
  | dispatched f g _ _ => rw [publish_cfg, State.setFrame_cfg]
  | _ => rfl

/-- Settles O12, by the cases of a turn. -/
theorem parametersNeverChange : Obligations.ParametersNeverChange := by
  intro s t h
  rw [(step_cases h).cfg_eq, State.taken_cfg]

/-! ### The rounding (R13) -/

section RoundNearest

variable {ties : RoundTies} {num den : Nat}

/-- Two nearest integers are equal: were one larger, both would lie half a unit from `num / den`, one above it and one below it,
and the tie rule would call two successive integers even. -/
theorem IsNearest.le {p q : Nat} (hden : 0 < den) (hp : IsNearest ties num den p) (hq : IsNearest ties num den q) : p ≤ q := by
  obtain ⟨hp_upper, -, -, hp_above⟩ := hp
  obtain ⟨-, hq_lower, hq_below, -⟩ := hq
  by_contra hlt
  have hstep : (q + 1) * den ≤ p * den := Nat.mul_le_mul_right den (by omega)
  rw [Nat.add_one_mul] at hstep
  obtain ⟨hties, hq_even⟩ := hq_below (by omega)
  have hp_even := hp_above (by omega) hties
  have hsucc : p = q + 1 := Nat.eq_of_mul_eq_mul_right hden (by rw [Nat.add_one_mul]; omega)
  omega

theorem IsNearest.unique {p q : Nat} (hden : 0 < den) (hp : IsNearest ties num den p) (hq : IsNearest ties num den q) : p = q :=
  Nat.le_antisymm (hp.le hden hq) (hq.le hden hp)

theorem roundNearest_of_lt_half (h : 2 * (num % den) < den) : roundNearest ties num den = num / den := if_pos h

theorem roundNearest_of_half_lt (h : den < 2 * (num % den)) : roundNearest ties num den = num / den + 1 := by
  simp [roundNearest, h, h.not_gt]

/-- Exactly halfway the lower integer is taken only where it is even and the rule is EVEN. -/
theorem roundNearest_of_eq_half (h : 2 * (num % den) = den) :
    roundNearest ties num den = if ties = .even ∧ num / den % 2 = 0 then num / den else num / den + 1 := by
  cases ties <;> simp [roundNearest, h]

/-- The remainder says on which side of the half `num / den` lies, and each side's integer is the nearest. -/
theorem roundNearest_isNearest (hden : 0 < den) : IsNearest ties num den (roundNearest ties num den) := by
  have hnum : num / den * den + num % den = num := Nat.div_add_mod' num den
  have hlt : num % den < den := Nat.mod_lt num hden
  have hsucc : (num / den + 1) * den = num / den * den + den := Nat.add_one_mul _ _
  unfold IsNearest
  rcases Nat.lt_trichotomy (2 * (num % den)) den with hbelow | htie | habove
  · rw [roundNearest_of_lt_half hbelow]
    omega
  · rw [roundNearest_of_eq_half htie]
    split_ifs with hlower
    · exact ⟨by omega, by omega, fun _ => hlower, by omega⟩
    · rw [hsucc]
      exact ⟨by omega, by omega, by omega, fun _ hties => by have := not_and.mp hlower hties; omega⟩
  · rw [roundNearest_of_half_lt habove, hsucc]
    omega

end RoundNearest

/-- Settles O13: `roundNearest` is nearest, and the nearest integer is unique. -/
theorem roundNearestIsTheNearest : Obligations.RoundNearestIsTheNearest := by
  intro ties num den q hden
  constructor
  · exact fun h => h.unique hden (roundNearest_isNearest hden)
  · rintro rfl
    exact roundNearest_isNearest hden

end Sys2Proof.Machine
end

