-- ==== Sys2Proof/Proofs/State.lean ====
section
/-! Proofs of the statements of 10_state.md: SEQ and HIST (R46, R58), the invariant (R35, R41, R45), STOPPED (R49) and the
counters (R50). -/

namespace Sys2Proof.Machine

/-! ### What DECODE leaves, field by field -/

@[simp] theorem framePush_cfg (f : FrameRec) (s : State) : (framePush f s).cfg = s.cfg := by
  rcases framePush_cases f s with ⟨-, h⟩ | ⟨-, h⟩ <;> rw [h] <;> rfl

@[simp] theorem framePush_hist (f : FrameRec) (s : State) : (framePush f s).hist = s.hist := by
  rcases framePush_cases f s with ⟨-, h⟩ | ⟨-, h⟩ <;> rw [h] <;> rfl

theorem framePush_cnt (f : FrameRec) (s : State) :
    (framePush f s).cnt = s.cnt ∨ (framePush f s).cnt = s.cnt.incFrameDrop := by
  rcases framePush_cases f s with ⟨-, h⟩ | ⟨-, h⟩ <;> rw [h]
  · exact .inr rfl
  · exact .inl rfl

@[simp] theorem complete_hist (s : State) : (complete s).hist = s.hist := framePush_hist _ _

theorem complete_cnt (s : State) :
    (complete s).cnt = s.cnt.incFrame ∨ (complete s).cnt = s.cnt.incFrame.incFrameDrop := framePush_cnt _ _

@[simp] theorem captureStore_cnt (v : I32) (s : State) : (captureStore v s).cnt = s.cnt := rfl

/-- CAPTURE counts its overflow or its completion, and a drop with a completion only (R176 to R178). -/
theorem capture_cnt (c : CycleRec) (s : State) :
    (capture c s).cnt ∈ [s.cnt, s.cnt.incOvf, s.cnt.incFrame, s.cnt.incFrame.incFrameDrop] := by
  rcases capture_cases c s with ⟨-, h⟩ | ⟨-, -, h⟩ | ⟨-, -, h⟩ <;> rw [h]
  · simp [overflow]
  · rcases complete_cnt (captureStore (trunc32 (chval s.cfg c)) s) with hc | hc <;> simp [hc]
  · simp

/-- DEC_STEP's counters: those of the one rule it applies. -/
theorem decStep_cnt (c : CycleRec) (s : State) :
    (decStep c s).cnt ∈ [s.cnt, s.cnt.incNoise, s.cnt.incOvf, s.cnt.incFrame, s.cnt.incFrame.incFrameDrop] := by
  rcases decStep_cases c s with ⟨-, h⟩ | ⟨-, -, h⟩ | ⟨-, -, -, h⟩ | ⟨-, -, -, h⟩ <;> rw [h]
  · simp [noise]
  · simp [sync]
  · simp
  · have := capture_cnt c s
    simp only [List.mem_cons] at this ⊢
    tauto

/-- DEC_STEP emits an OVF_EVT or nothing (R176, R311). -/
theorem decStep_hist (c : CycleRec) (s : State) :
    (decStep c s).hist = s.hist ∨ (decStep c s).hist = s.hist ++ [.ovfEvt s.dec.fbTs] := by
  rcases decStep_cases c s with ⟨-, h⟩ | ⟨-, -, h⟩ | ⟨-, -, -, h⟩ | ⟨-, -, -, h⟩ <;> rw [h]
  · exact .inl rfl
  · exact .inl rfl
  · exact .inl rfl
  · rcases capture_cases c s with ⟨-, h⟩ | ⟨-, -, h⟩ | ⟨-, -, h⟩ <;> rw [h]
    · exact .inr rfl
    · exact .inl (complete_hist _)
    · exact .inl rfl

theorem asmStep_of_cycle {e : EdgeRec} {s : State} {c : CycleRec} (h : (asmStep e s).2 = some c) :
    (asmStep e s).1 = asmHighFall e.ts s ∧ c = asmCycle e.ts s.asm := by
  obtain ⟨hphase, hfall, hc⟩ := (asmStep_frame e s).2.2 c h
  exact ⟨by simp [asmStep, hphase, hfall], hc⟩

/-- A consumed edge stays in the assembler, which may count an error, or completes the cycle that DEC_STEP takes (R156, R170). -/
theorem consumeEdge_asm_or_dec (e : EdgeRec) (s : State) :
    (∃ a c, (c = s.cnt ∨ c = s.cnt.incAsmErr) ∧ consumeEdge e s = (s.setAsm a).setCnt c) ∨
    consumeEdge e s = decStep (asmCycle e.ts s.asm) (asmHighFall e.ts s) := by
  rcases consumeEdge_cases e s with ⟨-, h⟩ | ⟨c, hc, h⟩
  · obtain ⟨hframe, hcnt, -⟩ := asmStep_frame e s
    exact .inl ⟨(asmStep e s).1.asm, (asmStep e s).1.cnt, hcnt, h.trans hframe⟩
  · obtain ⟨hs, rfl⟩ := asmStep_of_cycle hc
    exact .inr (by rw [h, hs])

/-- DECODE counts at most one thing, and a drop beside the completed frame it drops (R50). -/
theorem consumeEdge_cnt (e : EdgeRec) (s : State) :
    (consumeEdge e s).cnt ∈ [s.cnt, s.cnt.incAsmErr, s.cnt.incNoise, s.cnt.incOvf, s.cnt.incFrame,
      s.cnt.incFrame.incFrameDrop] := by
  rcases consumeEdge_asm_or_dec e s with ⟨a, c, hc, h⟩ | h <;> rw [h]
  · rcases hc with rfl | rfl <;> simp
  · have := decStep_cnt (asmCycle e.ts s.asm) (asmHighFall e.ts s)
    simp only [List.mem_cons, asmHighFall, State.setAsm_cnt] at this ⊢
    tauto

theorem consumeEdge_hist (e : EdgeRec) (s : State) :
    (consumeEdge e s).hist = s.hist ∨ (consumeEdge e s).hist = s.hist ++ [.ovfEvt s.dec.fbTs] := by
  rcases consumeEdge_asm_or_dec e s with ⟨a, c, -, h⟩ | h <;> rw [h]
  · exact .inl rfl
  · exact decStep_hist _ _

@[simp] theorem consumeEdge_stopped (e : EdgeRec) (s : State) : (consumeEdge e s).stopped = s.stopped := by
  rw [consumeEdge_frame]

@[simp] theorem consumeEdge_store (e : EdgeRec) (s : State) : (consumeEdge e s).store = s.store := by
  rw [consumeEdge_frame]

/-! ### SEQ and HIST (R46, R58, R85, R86) -/

/-- A turn leaves HIST and the ChannelStore as they are, or is the RESET, the overflow or the publish that the one new event of
HIST names. -/
theorem TurnCase.hist_cases {s t : State} {a : Action} (h : TurnCase s a t) :
    (t.hist = s.hist ∧ t.store = s.store) ∨
    (a = .rst 1 ∧ t.hist = s.hist ++ [.resetEvt]) ∨
    (a = .decode ∧ t.hist = s.hist ++ [.ovfEvt s.dec.fbTs] ∧ t.store = s.store) ∨
    (a = .dispatch ∧ t.hist = s.hist ++ [.frameEvt t.store.seq t.store.pubTs] ∧ t.store.seq = s.store.seq + 1) := by
  cases h with
  | reset => exact .inr (.inl ⟨rfl, rfl⟩)
  | decoded e f _ _ =>
    rcases consumeEdge_hist e (s.setEdge f) with hh | hh
    · exact .inl ⟨hh, consumeEdge_store _ _⟩
    · exact .inr (.inr (.inl ⟨rfl, hh, consumeEdge_store _ _⟩))
  | dispatched f g _ _ => exact .inr (.inr (.inr ⟨rfl, rfl, rfl⟩))
  | _ => exact .inl ⟨rfl, rfl⟩

/-- HIST gains events from `s` to `t`, and where no RESET_EVT is among them SEQ goes up by their number of FRAME_EVT. -/
def SeqCounts (s t : State) : Prop :=
  ∃ evs : List Event, t.hist = s.hist ++ evs ∧
    (Event.resetEvt ∉ evs → t.store.seq = s.store.seq + BitVec.ofNat 64 (evs.countP Event.isFrame))

theorem SeqCounts.refl (s : State) : SeqCounts s s := ⟨[], by simp⟩

theorem SeqCounts.trans {s t u : State} (hst : SeqCounts s t) (htu : SeqCounts t u) : SeqCounts s u := by
  obtain ⟨evs, hhist, hseq⟩ := hst
  obtain ⟨evs', hhist', hseq'⟩ := htu
  refine ⟨evs ++ evs', by rw [hhist', hhist, List.append_assoc], fun hno => ?_⟩
  obtain ⟨hno, hno'⟩ := not_or.mp (List.mem_append.not.mp hno)
  rw [hseq' hno', hseq hno, List.countP_append, BitVec.ofNat_add, BitVec.add_assoc]

theorem TurnCase.seqCounts {s t : State} {a : Action} (h : TurnCase s a t) : SeqCounts s t := by
  rcases h.hist_cases with ⟨hhist, hstore⟩ | ⟨-, hhist⟩ | ⟨-, hhist, hstore⟩ | ⟨-, hhist, hseq⟩
  · exact ⟨[], by simp [hhist], by simp [hstore]⟩
  · exact ⟨_, hhist, fun hno => absurd (List.mem_singleton_self _) hno⟩
  · exact ⟨_, hhist, fun _ => by simp [hstore, Event.isFrame]⟩
  · exact ⟨_, hhist, fun _ => by simp [hseq, Event.isFrame]⟩

theorem step_seqCounts {s t : State} (h : step s = .next t) : SeqCounts s t := by
  obtain ⟨evs, hev⟩ := (step_cases h).seqCounts
  exact ⟨evs, by simpa using hev⟩

section Run

variable {M : Host.Core} {k : Nat} {s t : M.State}

theorem run_succ_eq_next (h : M.run (k + 1) s = .next t) : ∃ u, M.step s = .next u ∧ M.run k u = .next t := by
  rw [Host.Core.run] at h
  split at h
  · next u hs => exact ⟨u, hs, h⟩
  · cases h
  · cases h

/-- A reflexive and transitive relation that every step keeps relates the ends of every run. -/
theorem run_induction {R : M.State → M.State → Prop} (hrefl : ∀ s, R s s) (htrans : ∀ s t u, R s t → R t u → R s u)
    (hstep : ∀ s t, M.step s = .next t → R s t) (h : M.run k s = .next t) : R s t := by
  induction k generalizing s with
  | zero =>
    cases h
    exact hrefl _
  | succ k ih =>
    obtain ⟨u, hs, hrun⟩ := run_succ_eq_next h
    exact htrans s u t (hstep s u hs) (ih hrun)

end Run

/-- Settles O32: each step counts its own publish, and the counts of a run's steps add up. -/
theorem seqCountsPublishes : Obligations.SeqCountsPublishes := fun _ _ _ h =>
  run_induction (M := Sys2Proof.core) (R := SeqCounts) SeqCounts.refl (fun _ _ _ => SeqCounts.trans) (fun _ _ => step_seqCounts) h

/-! ### The invariant (R35, R41, R43 to R45, R48) -/

section Inv

variable {s : State}

theorem State.Inv.setCnt (h : s.Inv) (c : Counters) : (s.setCnt c).Inv := { h with }

theorem State.Inv.setAsm (h : s.Inv) (a : Asm) : (s.setAsm a).Inv := { h with }

theorem State.Inv.setStopped (h : s.Inv) : s.setStopped.Inv := { h with }

theorem State.Inv.emit (h : s.Inv) (ev : Event) : (s.emit ev).Inv := { h with }

theorem State.Inv.setEdge (h : s.Inv) {f : Fifo EdgeRec} (hf : f.Ok s.cfg.edgeDepth) : (s.setEdge f).Inv :=
  { h with edge := hf }

theorem State.Inv.setDec (h : s.Inv) {d : Dec} (hd : d.Ok s.cfg) : (s.setDec d).Inv := { h with dec := hd }

theorem State.Inv.setFrame (h : s.Inv) {f : Fifo FrameRec} (hf : f.Ok s.cfg.frameDepth)
    (hch : ∀ g ∈ f.q, g.ch.length = s.cfg.channelCount) : (s.setFrame f).Inv :=
  { h with frame := hf, frameCh := hch }

theorem State.Inv.setStore (h : s.Inv) {st : Store} (hch : st.pubCh.length = s.cfg.channelCount) : (s.setStore st).Inv :=
  { h with pubCh := hch }

theorem State.Inv.respond (h : s.Inv) {r : Response} (hch : r.ch.length = s.cfg.channelCount) : (s.respond r).Inv :=
  { h with rspCh := by simpa using hch }

/-- A turn begins with an empty response port. -/
theorem State.Inv.taken (h : s.Inv) : s.taken.Inv where
  edge := by simpa using h.edge
  frame := by simpa using h.frame
  frameCh := by simpa using h.frameCh
  dec := by simpa using h.dec
  pubCh := by simpa using h.pubCh
  rspCh := by simp

/-- Rule R331: at power-on both FIFOs are empty with exact views, and every array has its length. -/
theorem powerOn_inv (cfg : Config) : (State.powerOn cfg).Inv where
  edge := ⟨Nat.le_refl 0, Nat.le_refl cfg.edgeDepth⟩
  frame := ⟨Nat.le_refl 0, Nat.le_refl cfg.frameDepth⟩
  frameCh := by simp [State.powerOn]
  dec := ⟨List.length_replicate, fun _ => rfl, by simp [State.powerOn]⟩
  pubCh := by simp [State.powerOn]
  rspCh := by simp [State.powerOn]

/-- RESET leaves the response port, so it needs the invariant of that alone (log 15). -/
theorem State.Inv.clear (h : s.Inv) : s.clear.Inv := { powerOn_inv s.cfg with rspCh := h.rspCh }

theorem Dec.Ok.toIdle {cfg : Config} {d : Dec} (h : d.Ok cfg) : d.toIdle.Ok cfg :=
  ⟨h.1, fun _ => rfl, by simp [Dec.toIdle]⟩

theorem State.Inv.framePush (h : s.Inv) {f : FrameRec} (hf : f.ch.length = s.cfg.channelCount) : (framePush f s).Inv := by
  rcases framePush_cases f s with ⟨-, hp⟩ | ⟨hfree, hp⟩ <;> rw [hp]
  · exact h.setCnt _
  · refine h.setFrame (Fifo.push_ok h.frame (if_neg hfree.ne')) ?_
    simpa [or_imp, forall_and, hf] using h.frameCh

theorem State.Inv.captureStore (h : s.Inv) (v : I32) : (captureStore v s).Inv := by
  obtain ⟨hlen, hidle, hcapt⟩ := h.dec
  exact h.setDec ⟨by simpa using hlen, hidle, hcapt⟩

/-- The frame buffer holds a whole frame when it has room for N channels. -/
theorem State.Inv.complete (h : s.Inv) (hroom : s.cfg.channelCount ≤ s.cfg.maxChannels) : (complete s).Inv := by
  obtain ⟨hlen, -, -⟩ := h.dec
  have hch : (s.dec.fbCh.take s.cfg.channelCount).length = s.cfg.channelCount := by
    rw [List.length_take, hlen, Nat.min_eq_left hroom]
  refine ((h.setCnt s.cnt.incFrame).framePush hch).setDec ?_
  rw [framePush_cfg]
  exact h.dec.toIdle

/-- CAPTURE below both limits moves CH_IDX to at most N - 1 and M; at either limit it goes back to IDLE. -/
theorem State.Inv.capture (h : s.Inv) (hstate : s.dec.state = .capturing) (c : CycleRec) : (capture c s).Inv := by
  rcases capture_cases c s with ⟨-, hc⟩ | ⟨hroom, hlast, hc⟩ | ⟨hroom, hmore, hc⟩ <;> rw [hc]
  · exact ((h.setCnt _).emit _).setDec h.dec.toIdle
  · exact (h.captureStore _).complete (show s.cfg.channelCount ≤ s.cfg.maxChannels by omega)
  · obtain ⟨hlen, -, hcapt⟩ := h.dec
    have hidx := hcapt hstate
    exact h.setDec ⟨by simpa using hlen, by simp [hstate], fun _ => show s.dec.chIdx + 1 ≤ _ by omega⟩

theorem State.Inv.decStep (h : s.Inv) (c : CycleRec) : (decStep c s).Inv := by
  rcases decStep_cases c s with ⟨-, hd⟩ | ⟨-, -, hd⟩ | ⟨-, -, -, hd⟩ | ⟨-, -, hstate, hd⟩ <;> rw [hd]
  · exact (h.setDec h.dec.toIdle).setCnt _
  · exact h.setDec ⟨List.length_replicate, fun _ => rfl, fun _ => Nat.zero_le _⟩
  · exact h
  · exact h.capture hstate c

theorem State.Inv.consumeEdge (h : s.Inv) (e : EdgeRec) : (consumeEdge e s).Inv := by
  rcases consumeEdge_asm_or_dec e s with ⟨a, c, -, he⟩ | he <;> rw [he]
  · exact (h.setAsm a).setCnt c
  · exact State.Inv.decStep (h.setAsm _) _

theorem State.Inv.publish (h : s.Inv) {f : FrameRec} (hf : f.ch.length = s.cfg.channelCount) : (publish f s).Inv :=
  (h.setStore hf).emit _

end Inv

theorem TurnCase.inv {s t : State} {a : Action} (ht : TurnCase s a t) (h : s.Inv) : t.Inv := by
  cases ht with
  | noStep => exact h
  | answered k w a b c r hch =>
    refine h.respond ?_
    rcases hch with hch | hch <;> rw [hch]
    · exact List.length_replicate
    · exact h.pubCh
  | stopped => exact h.setStopped.respond List.length_replicate
  | edgeDropped => exact h.setCnt _
  | edgeQueued w e f _ hpush => exact h.setEdge (Fifo.push_ok h.edge hpush)
  | reset => exact h.clear.emit _
  | esyncW2R k f hf => exact h.setEdge (Fifo.syncW2R_ok h.edge hf)
  | esyncR2W k f hf => exact h.setEdge (Fifo.syncR2W_ok h.edge hf)
  | fsyncW2R k f hf =>
    refine h.setFrame (Fifo.syncW2R_ok h.frame hf) ?_
    obtain ⟨-, rfl⟩ := Fifo.syncW2R_eq_some hf
    exact h.frameCh
  | fsyncR2W k f hf =>
    refine h.setFrame (Fifo.syncR2W_ok h.frame hf) ?_
    obtain ⟨-, rfl⟩ := Fifo.syncR2W_eq_some hf
    exact h.frameCh
  | decoded e f _ hpop => exact (h.setEdge (Fifo.pop_ok h.edge hpop)).consumeEdge e
  | dispatched f g _ hpop =>
    obtain ⟨-, hq, -, -⟩ := Fifo.pop_eq_some hpop
    obtain ⟨hf, hrest⟩ := List.forall_mem_cons.mp (hq ▸ h.frameCh)
    exact (h.setFrame (Fifo.pop_ok h.frame hpop) hrest).publish hf

/-- Settles O55, by the cases of a turn. -/
theorem stepKeepsInvariant : Obligations.StepKeepsInvariant := fun _ _ h hs => (step_cases hs).inv h.taken

/-- Settles O56. -/
theorem resetMeetsInvariant : Obligations.ResetMeetsInvariant := ⟨powerOn_inv Config.block, powerOn_inv⟩

/-! ### STOPPED (R49) -/

/-- STOP writes STOPPED to 1, RESET to 0, and no other turn writes it. -/
theorem TurnCase.stopped_cases {s t : State} {a : Action} (h : TurnCase s a t) :
    t.stopped = s.stopped ∨ (t.stopped = true ∧ ∃ k x y z, a = .host k 0x0000000A x y z) ∨
    (t.stopped = false ∧ a = .rst 1) := by
  cases h with
  | stopped k x y z => exact .inr (.inl ⟨rfl, k, x, y, z, rfl⟩)
  | reset => exact .inr (.inr ⟨rfl, rfl⟩)
  | decoded e f _ _ => exact .inl (consumeEdge_stopped _ _)
  | _ => exact .inl rfl

/-- Settles O51. -/
theorem stoppedSetByStopClearedByReset : Obligations.StoppedSetByStopClearedByReset := by
  refine ⟨rfl, fun s => ⟨_, _, rfl, rfl, rfl, rfl⟩, fun s t h => ?_⟩
  have hcases := (step_cases h).stopped_cases
  rw [State.taken_stopped] at hcases
  rcases hcases with hkept | ⟨hset, hstop⟩ | ⟨hcleared, hreset⟩
  · exact ⟨fun hs ht => by simp [hkept, hs] at ht, fun hs ht => by simp [hkept, hs] at ht⟩
  · exact ⟨fun _ _ => hstop, fun _ ht => by simp [hset] at ht⟩
  · exact ⟨fun _ ht => by simp [hcleared] at ht, fun _ _ => hreset⟩

/-! ### The counters (R50, R81) -/

/-- Each counter stays as it is, or its own writer's turn adds 1 to it. -/
def Counters.WrittenBy (a : Action) (c c' : Counters) : Prop :=
  (c'.edgeDrop = c.edgeDrop ∨ ((∃ w, a = .src w) ∧ c'.edgeDrop = c.edgeDrop + 1)) ∧
  (c'.noise = c.noise ∨ (a = .decode ∧ c'.noise = c.noise + 1)) ∧
  (c'.ovf = c.ovf ∨ (a = .decode ∧ c'.ovf = c.ovf + 1)) ∧
  (c'.frameDrop = c.frameDrop ∨ (a = .decode ∧ c'.frameDrop = c.frameDrop + 1)) ∧
  (c'.asmErr = c.asmErr ∨ (a = .decode ∧ c'.asmErr = c.asmErr + 1)) ∧
  (c'.frame = c.frame ∨ (a = .decode ∧ c'.frame = c.frame + 1))

theorem Counters.WrittenBy.refl (a : Action) (c : Counters) : c.WrittenBy a c := by simp [WrittenBy]

theorem Counters.WrittenBy.edgeDrop (w : BitVec 65) (c : Counters) : c.WrittenBy (.src w) c.incEdgeDrop := by
  simp [WrittenBy, incEdgeDrop]

theorem Counters.WrittenBy.decode {c c' : Counters}
    (h : c' ∈ [c, c.incAsmErr, c.incNoise, c.incOvf, c.incFrame, c.incFrame.incFrameDrop]) : c.WrittenBy .decode c' := by
  simp only [List.mem_cons, List.not_mem_nil, or_false] at h
  rcases h with rfl | rfl | rfl | rfl | rfl | rfl <;>
    simp [WrittenBy, incAsmErr, incNoise, incOvf, incFrame, incFrameDrop]

theorem TurnCase.cnt_writtenBy {s t : State} {a : Action} (h : TurnCase s a t) (hreset : a ≠ .rst 1) :
    s.cnt.WrittenBy a t.cnt := by
  cases h with
  | reset => exact absurd rfl hreset
  | edgeDropped w _ _ => exact .edgeDrop w s.cnt
  | decoded e f _ _ => exact .decode (consumeEdge_cnt e (s.setEdge f))
  | _ => exact .refl _ _

/-- Settles O54, by the cases of a turn. -/
theorem countersHaveOneWriter : Obligations.CountersHaveOneWriter := by
  intro s t h hreset
  have hcnt := (step_cases h).cnt_writtenBy hreset
  rwa [State.taken_cnt] at hcnt

end Sys2Proof.Machine
end

