-- ==== Sys2Proof/Proofs/Memory.lean ====
section
/-! Proofs of the statements of 20_memory.md: what a host writes (R80, R88), the one writer of the ChannelStore (R81) and the order
of the FIFOs (R75). -/

namespace Sys2Proof.Machine

/-! ### What a host writes (R80, R88) -/

/-- A host's turn writes STOPPED and its response port at most: it answers, and STOP alone writes. -/
theorem TurnCase.host_frame {s t : State} {k : Nat} {w : BitVec 32} {a b c : U64} (h : TurnCase s (.host k w a b c) t) :
    t = { s with stopped := t.stopped, rsp := t.rsp } := by
  cases h with
  | noStep => rfl
  | answered => rfl
  | stopped => rfl

/-- Settles O29, by the three cases of a host's turn. -/
theorem hostsWriteOnlyStopped : Obligations.HostsWriteOnlyStopped := by
  intro s t k w a b c hact hstep
  have hturn := step_cases hstep
  rw [hact] at hturn
  exact hturn.host_frame

/-! ### The queue of a FIFO under each of its operations (R74, R75) -/

section Fifo

variable {α : Type} {f g : Fifo α} {e : α} {k depth : Nat}

theorem Fifo.push_q (h : f.push e = some g) : g.q = f.q ++ [e] := by
  obtain ⟨-, rfl⟩ := Fifo.push_eq_some h
  rfl

theorem Fifo.pop_q (h : f.pop = some (e, g)) : f.q = e :: g.q := by
  obtain ⟨-, hq, -, -⟩ := Fifo.pop_eq_some h
  exact hq

theorem Fifo.syncW2R_q (h : f.syncW2R k = some g) : g.q = f.q := by
  obtain ⟨-, rfl⟩ := Fifo.syncW2R_eq_some h
  rfl

theorem Fifo.syncR2W_q (h : f.syncR2W depth k = some g) : g.q = f.q := by
  obtain ⟨-, rfl⟩ := Fifo.syncR2W_eq_some h
  rfl

/-- All that an agent on the writer's side does to a FIFO: nothing, or one push. -/
def Fifo.KeptOrPushed (f g : Fifo α) : Prop := g = f ∨ ∃ e, f.push e = some g

theorem Fifo.KeptOrPushed.q_cases (h : f.KeptOrPushed g) : g.q = f.q ∨ ∃ e, g.q = f.q ++ [e] := by
  rcases h with rfl | ⟨e, hpush⟩
  · exact .inl rfl
  · exact .inr ⟨e, Fifo.push_q hpush⟩

end Fifo

/-! ### The writer of the ChannelStore (R81) -/

/-- A turn that writes the ChannelStore is a RESET, or the DISPATCH that publishes the frame it pops (R206). -/
theorem TurnCase.store_cases {s t : State} {a : Action} (h : TurnCase s a t) :
    t.store = s.store ∨ a = .rst 1 ∨
    (a = .dispatch ∧ s.stopped = false ∧ ∃ f, s.frame.q = f :: t.frame.q ∧
      t.store = { seq := s.store.seq + 1, pubTs := f.ts, pubCh := f.ch }) := by
  cases h with
  | reset => exact .inr (.inl rfl)
  | decoded e f _ _ => exact .inl (consumeEdge_store e (s.setEdge f))
  | dispatched f g hrun hpop => exact .inr (.inr ⟨rfl, hrun, f, Fifo.pop_q hpop, rfl⟩)
  | _ => exact .inl rfl

/-- Settles O31, by the cases of a turn. -/
theorem snapshotWrittenOnlyByDispatch : Obligations.SnapshotWrittenOnlyByDispatch := by
  intro s t hstep hchanged
  have hcases := (step_cases hstep).store_cases
  simp only [State.taken_store, State.taken_stopped, State.taken_frame] at hcases
  exact hcases.resolve_left hchanged

/-! ### What DECODE does to the two FIFOs (R81, R178) -/

@[simp] theorem consumeEdge_edge (e : EdgeRec) (s : State) : (consumeEdge e s).edge = s.edge := by
  rw [consumeEdge_frame]

theorem framePush_frame_keptOrPushed (f : FrameRec) (s : State) : s.frame.KeptOrPushed (framePush f s).frame := by
  unfold framePush
  split
  · exact .inl rfl
  · next g hpush => exact .inr ⟨f, hpush⟩

theorem complete_frame_keptOrPushed (s : State) : s.frame.KeptOrPushed (complete s).frame :=
  framePush_frame_keptOrPushed _ (s.setCnt s.cnt.incFrame)

/-- CAPTURE hands a frame to FQ with the last channel only (R177). -/
theorem capture_frame_keptOrPushed (c : CycleRec) (s : State) : s.frame.KeptOrPushed (capture c s).frame := by
  rcases capture_cases c s with ⟨-, h⟩ | ⟨-, -, h⟩ | ⟨-, -, h⟩ <;> rw [h]
  · exact .inl rfl
  · exact complete_frame_keptOrPushed (captureStore (trunc32 (chval s.cfg c)) s)
  · exact .inl rfl

theorem decStep_frame_keptOrPushed (c : CycleRec) (s : State) : s.frame.KeptOrPushed (decStep c s).frame := by
  rcases decStep_cases c s with ⟨-, h⟩ | ⟨-, -, h⟩ | ⟨-, -, -, h⟩ | ⟨-, -, -, h⟩ <;> rw [h]
  · exact .inl rfl
  · exact .inl rfl
  · exact .inl rfl
  · exact capture_frame_keptOrPushed c s

theorem consumeEdge_frame_keptOrPushed (e : EdgeRec) (s : State) : s.frame.KeptOrPushed (consumeEdge e s).frame := by
  rcases consumeEdge_asm_or_dec e s with ⟨a, c, -, h⟩ | h <;> rw [h]
  · exact .inl rfl
  · exact decStep_frame_keptOrPushed _ (asmHighFall e.ts s)

/-! ### The order of the FIFOs (R75) -/

/-- EQ loses its head to DECODE and gains a last entry from SRC; RESET, which empties it, is left out. -/
theorem TurnCase.edge_q_cases {s t : State} {a : Action} (h : TurnCase s a t) (hreset : a ≠ .rst 1) :
    t.edge.q = s.edge.q ∨ (a = .decode ∧ ∃ e, s.edge.q = e :: t.edge.q) ∨
    ∃ w e, a = .src w ∧ t.edge.q = s.edge.q ++ [e] := by
  cases h with
  | reset => exact absurd rfl hreset
  | edgeQueued w e f _ hpush => exact .inr (.inr ⟨w, e, rfl, Fifo.push_q hpush⟩)
  | esyncW2R k f hsync => exact .inl (Fifo.syncW2R_q hsync)
  | esyncR2W k f hsync => exact .inl (Fifo.syncR2W_q hsync)
  | decoded e f _ hpop =>
    rw [consumeEdge_edge, State.setEdge_edge]
    exact .inr (.inl ⟨rfl, e, Fifo.pop_q hpop⟩)
  | _ => exact .inl rfl

/-- FQ loses its head to DISPATCH and gains a last entry from DECODE; RESET, which empties it, is left out. -/
theorem TurnCase.frame_q_cases {s t : State} {a : Action} (h : TurnCase s a t) (hreset : a ≠ .rst 1) :
    t.frame.q = s.frame.q ∨ (a = .dispatch ∧ ∃ f, s.frame.q = f :: t.frame.q) ∨
    ∃ f, a = .decode ∧ t.frame.q = s.frame.q ++ [f] := by
  cases h with
  | reset => exact absurd rfl hreset
  | fsyncW2R k f hsync => exact .inl (Fifo.syncW2R_q hsync)
  | fsyncR2W k f hsync => exact .inl (Fifo.syncR2W_q hsync)
  | decoded e f _ _ =>
    rcases (consumeEdge_frame_keptOrPushed e (s.setEdge f)).q_cases with hkept | ⟨g, hpushed⟩
    · exact .inl hkept
    · exact .inr (.inr ⟨g, rfl, hpushed⟩)
  | dispatched f g _ hpop => exact .inr (.inl ⟨rfl, f, Fifo.pop_q hpop⟩)
  | _ => exact .inl rfl

/-- Settles O36: what a turn does to each queue. -/
theorem queuesAreFirstInFirstOut : Obligations.QueuesAreFirstInFirstOut := by
  intro s t hstep hreset
  have hedge := (step_cases hstep).edge_q_cases hreset
  have hframe := (step_cases hstep).frame_q_cases hreset
  rw [State.taken_edge] at hedge
  rw [State.taken_frame] at hframe
  exact ⟨hedge, hframe⟩

end Sys2Proof.Machine
end

