-- ==== Sys2Proof/Proofs/Encoding.lean ====
section
/-! Proofs of the statements of 30_encoding.md: the command words and edge words (R101 to R109, R115), the literals of the text
(R113) and the pseudo-instructions DRAIN and SET_FREQ (R114). -/

namespace Sys2Proof

/-! ### Edge words (R103) -/

theorem decodeEdge_append (r : BitVec 1) (ts : I64) : decodeEdge (r ++ ts) = .edge (r == 1) ts := by
  simp only [decodeEdge, edgeWord_polarity, edgeWord_ts]

/-- Settles O2. -/
theorem edgeWordsDecode : Obligations.EdgeWordsDecode :=
  ⟨fun r ts => congrArg Except.ok (decodeEdge_append r ts), fun _ => ⟨_, _, rfl⟩⟩

/-- An edge word is its two fields. -/
theorem encode_decodeEdge (w : BitVec 65) : encode (decodeEdge w) = .edge w := by
  have hpol : BitVec.ofBool (w.getLsbD 64) = w.extractLsb' 64 1 := by
    ext i hi
    simp [show i = 0 by omega]
  simp only [decodeEdge, encode, hpol]
  exact congrArg PortWord.edge (append_extract (n := 1) (m := 64) w)

/-! ### Command words (R101, R102, R105, R106, R109) -/

/-- Settles O1: each word is a closed value, of which the decoder reads both fields. -/
theorem commandWordsDecode : Obligations.CommandWordsDecode := fun _ _ _ =>
  ⟨rfl, rfl, rfl, rfl, rfl, rfl, rfl, rfl, rfl⟩

/-- The nine OP values of rule R105. -/
theorem opAssigned_iff {op : BitVec 4} : opAssigned op = true ↔
    op = 0x1 ∨ op = 0x2 ∨ op = 0x3 ∨ op = 0x4 ∨ op = 0x5 ∨ op = 0x6 ∨ op = 0x8 ∨ op = 0x9 ∨ op = 0xA := by
  simp only [opAssigned, Bool.or_eq_true, beq_iff_eq, or_assoc]

/-- The other seven, each with an ILLEGAL_OP row of its own (R109). -/
theorem opAssigned_eq_false {op : BitVec 4} (h : opAssigned op = false) :
    op = 0x0 ∨ op = 0x7 ∨ op = 0xB ∨ op = 0xC ∨ op = 0xD ∨ op = 0xE ∨ op = 0xF := by
  revert op
  decide

/-- Rule R109: an assigned OP with RSVD not 0 is no command, whatever the operands. -/
theorem decodeCmd_illegalRsvd {op : BitVec 4} {rsvd : BitVec 28} (hop : opAssigned op = true) (hrsvd : rsvd ≠ 0) (a b c : U64) :
    decodeCmd (cmdWord rsvd op) a b c = .illegalRsvd op rsvd := by
  rcases opAssigned_iff.mp hop with rfl | rfl | rfl | rfl | rfl | rfl | rfl | rfl | rfl <;>
    simp [decodeCmd, unlessRsvd_of_ne hrsvd]

/-- Settles O3, by the rows of the table: a legal row's word is a closed value, and an illegal row's word is put together from the
fields that its row leaves free. -/
theorem decodeEncodeAgree : Obligations.DecodeEncodeAgree := by
  intro i hwf
  cases i with
  | illegalOp0 rsvd | illegalOp7 rsvd | illegalOpB rsvd | illegalOpC rsvd | illegalOpD rsvd | illegalOpE rsvd | illegalOpF rsvd =>
    simp [encode, decode, decodeCmd]
  | illegalRsvd op rsvd =>
    obtain ⟨hrsvd, hop⟩ : rsvd ≠ 0 ∧ opAssigned op = true := by simpa [Instr.wf] using hwf
    exact congrArg Except.ok (decodeCmd_illegalRsvd hop hrsvd 0 0 0)
  | edge rising ts =>
    have hpol : (BitVec.ofBool rising == 1) = rising := by cases rising <;> rfl
    rw [encode, decode, decodeEdge_append, hpol]
  | _ => rfl

/-- `i` is well-formed and its encoding is the command word `w`. -/
def Instr.StandsFor (i : Instr) (w : BitVec 32) : Prop := i.wf = true ∧ ∃ a b c, encode i = .cmd w a b c

/-- A legal row's instruction stands for its word where RSVD is 0, and ILLEGAL_RSVD for every other word of its OP. -/
theorem unlessRsvd_standsFor {op : BitVec 4} {i : Instr} (hop : opAssigned op = true) (hi : i.StandsFor (cmdWord 0 op))
    (rsvd : BitVec 28) : (unlessRsvd op rsvd i).StandsFor (cmdWord rsvd op) := by
  by_cases hrsvd : rsvd = 0
  · rwa [hrsvd, unlessRsvd_zero]
  · rw [unlessRsvd_of_ne hrsvd]
    exact ⟨by simpa [Instr.wf, hop] using hrsvd, 0, 0, 0, rfl⟩

/-- Every command word is the word of the instruction it decodes to, by the sixteen values of OP. -/
theorem decodeCmd_standsFor (w : BitVec 32) (a b c : U64) : (decodeCmd w a b c).StandsFor w := by
  rw [← cmdWord_fields w]
  generalize cmdRsvd w = rsvd
  generalize cmdOp w = op
  simp only [decodeCmd, cmdOp_cmdWord, cmdRsvd_cmdWord]
  cases hop : opAssigned op with
  | true =>
    rcases opAssigned_iff.mp hop with rfl | rfl | rfl | rfl | rfl | rfl | rfl | rfl | rfl <;>
      exact unlessRsvd_standsFor hop ⟨rfl, _, _, _, rfl⟩ rsvd
  | false =>
    rcases opAssigned_eq_false hop with rfl | rfl | rfl | rfl | rfl | rfl | rfl <;>
      exact ⟨rfl, _, _, _, rfl⟩

/-- Settles O4. -/
theorem decodedWordIsRecovered : Obligations.DecodedWordIsRecovered := by
  refine ⟨fun w a b c => ?_, fun w => ⟨_, rfl, rfl, encode_decodeEdge w⟩⟩
  obtain ⟨hwf, a', b', c', henc⟩ := decodeCmd_standsFor w a b c
  exact ⟨_, a', b', c', rfl, hwf, henc⟩

end Sys2Proof

namespace Sys2Proof.Machine

/-! ### Literals (R113) -/

theorem asU64_of_le {n : Nat} (h : n ≤ max64) : asU64 n = some (BitVec.ofNat 64 n) := by
  rw [asU64, if_pos ⟨Int.natCast_nonneg n, Int.ofNat_le.mpr h⟩, BitVec.ofInt_natCast]

theorem asU64_of_lt {n : Nat} (h : max64 < n) : asU64 n = none :=
  if_neg fun hfits => absurd (Int.ofNat_le.mp hfits.2) (Nat.not_le.mpr h)

/-- Settles O7: a literal with at most S fraction digits is the integer `digits × 10^(S - frac)`, which assembles if it fits. -/
theorem decimalLiteralsAreExact : Obligations.DecimalLiteralsAreExact := by
  intro cfg digits frac
  refine ⟨fun hfrac hfits => ?_, fun hfrac => if_neg (Nat.not_le.mpr hfrac), fun hfrac hbig => ?_⟩
  · refine ⟨_, by rw [dec64Literal, if_pos hfrac, asU64_of_le hfits], ?_⟩
    rw [BitVec.toNat_ofNat, Nat.mod_eq_of_lt (by omega), Nat.mul_assoc, Nat.pow_sub_mul_pow 10 hfrac]
  · rw [dec64Literal, if_pos hfrac, asU64_of_lt hbig]

/-! ### DRAIN (R114) -/

/-- A FIFO that holds `q`, with both views up to date (R35, R45). -/
def Fifo.upToDate {α : Type} (depth : Nat) (q : List α) : Fifo α := ⟨q, q.length, depth - q.length⟩

section Fifo

variable {α : Type} {f : Fifo α} {depth : Nat}

theorem Fifo.syncW2R_length (h : f.Ok depth) : f.syncW2R f.q.length = some { f with rvis := f.q.length } :=
  if_pos ⟨h.1, Nat.le_refl _⟩

theorem Fifo.syncR2W_free (h : f.Ok depth) :
    f.syncR2W depth (depth - f.q.length) = some { f with wfree := depth - f.q.length } := by
  obtain ⟨-, hfree⟩ := h
  exact if_pos ⟨by omega, by omega⟩

/-- What a reader whose view is up to date leaves: the head is off, if there is one, and the view is up to date again. -/
def Fifo.popped (f : Fifo α) : Fifo α := { f with q := f.q.tail, rvis := f.q.tail.length }

theorem Fifo.popped_of_nil (hv : f.rvis = f.q.length) (hq : f.q = []) : f.popped = f := by
  obtain ⟨q, rvis, wfree⟩ := f
  obtain rfl : q = [] := hq
  obtain rfl : rvis = 0 := hv
  rfl

theorem Fifo.pop_of_rvis_eq (hv : f.rvis = f.q.length) : f.pop = f.q.head?.map fun e => (e, f.popped) := by
  obtain ⟨q, rvis, wfree⟩ := f
  obtain rfl : rvis = q.length := hv
  cases q <;> rfl

end Fifo

/-! An internal step of DRAIN is the turn of its agent, so it keeps the parameters, the invariant and STOPPED. -/

/-- A running block with the parameters `cfg` that meets the invariant. -/
structure State.Running (cfg : Config) (s : State) : Prop where
  inv : s.Inv
  stopped : s.stopped = false
  cfg_eq : s.cfg = cfg

theorem runAgent_eq_orStay (o : Option State) (s : State) : runAgent o s = .next (orStay o s) := by
  cases o <;> rfl

/-- No agent but a host stops the block. -/
theorem TurnCase.running {cfg : Config} {s t : State} {a : Action} (h : TurnCase s a t) (hs : s.Running cfg)
    (hhost : ∀ k w x y z, a ≠ .host k w x y z) : t.Running cfg where
  inv := h.inv hs.inv
  stopped := by
    rcases h.stopped_cases with hkept | ⟨-, k, x, y, z, hact⟩ | ⟨hclear, -⟩
    · rw [hkept, hs.stopped]
    · exact absurd hact (hhost _ _ _ _ _)
    · exact hclear
  cfg_eq := by rw [h.cfg_eq, hs.cfg_eq]

/-- An agent's step in the course of DRAIN. -/
theorem State.Running.orStay {cfg : Config} {s : State} {o : Option State} (hs : s.Running cfg) (a : Action)
    (hturn : turn a s = runAgent o s := by rfl) (hhost : ∀ k w x y z, a ≠ .host k w x y z := by nofun) :
    (orStay o s).Running cfg :=
  (turn_cases (hturn.trans (runAgent_eq_orStay o s))).running hs hhost

/-- The edge half of a round of DRAIN: ESYNC_W2R, DECODE, ESYNC_R2W. -/
def drainEdge (s : State) : State :=
  let s := orStay (esyncW2R s.edge.q.length s) s
  let s := orStay (decodeStep s) s
  orStay (esyncR2W (s.cfg.edgeDepth - s.edge.q.length) s) s

/-- The frame half of a round of DRAIN: FSYNC_W2R, DISPATCH, FSYNC_R2W. -/
def drainFrame (s : State) : State :=
  let s := orStay (fsyncW2R s.frame.q.length s) s
  let s := orStay (dispatchStep s) s
  orStay (fsyncR2W (s.cfg.frameDepth - s.frame.q.length) s) s

theorem drainRound_eq (s : State) : drainRound s = drainFrame (drainEdge s) := by
  rw [drainRound, drainFrame, drainEdge]

section Drain

variable {cfg : Config} {s : State}

theorem State.Running.drainEdge (h : s.Running cfg) : (drainEdge s).Running cfg :=
  ((h.orStay (.esyncW2R _)).orStay .decode).orStay (.esyncR2W _)

theorem State.Running.drainFrame (h : s.Running cfg) : (drainFrame s).Running cfg :=
  ((h.orStay (.fsyncW2R _)).orStay .dispatch).orStay (.fsyncR2W _)

theorem State.Running.drainRound (h : s.Running cfg) : (drainRound s).Running cfg := h.drainEdge.drainFrame

theorem orStay_esyncW2R (h : s.Running cfg) :
    orStay (esyncW2R s.edge.q.length s) s = s.setEdge { s.edge with rvis := s.edge.q.length } := by
  rw [esyncW2R, Fifo.syncW2R_length h.inv.edge]; rfl

theorem orStay_esyncR2W (h : s.Running cfg) :
    orStay (esyncR2W (s.cfg.edgeDepth - s.edge.q.length) s) s =
      s.setEdge { s.edge with wfree := s.cfg.edgeDepth - s.edge.q.length } := by
  rw [esyncR2W, Fifo.syncR2W_free h.inv.edge]; rfl

theorem orStay_fsyncW2R (h : s.Running cfg) :
    orStay (fsyncW2R s.frame.q.length s) s = s.setFrame { s.frame with rvis := s.frame.q.length } := by
  rw [fsyncW2R, Fifo.syncW2R_length h.inv.frame]; rfl

theorem orStay_fsyncR2W (h : s.Running cfg) :
    orStay (fsyncR2W (s.cfg.frameDepth - s.frame.q.length) s) s =
      s.setFrame { s.frame with wfree := s.cfg.frameDepth - s.frame.q.length } := by
  rw [fsyncR2W, Fifo.syncR2W_free h.inv.frame]; rfl

/-- DECODE with an up-to-date view pops the head of EQ, if there is one. -/
theorem orStay_decodeStep_edge (h : s.Running cfg) (hv : s.edge.rvis = s.edge.q.length) :
    (orStay (decodeStep s) s).edge = s.edge.popped := by
  rw [decodeStep, h.stopped, Fifo.pop_of_rvis_eq hv]
  cases hq : s.edge.q with
  | nil => exact (Fifo.popped_of_nil hv hq).symm
  | cons e q => simp [orStay]

/-- DISPATCH with an up-to-date view pops the head of FQ, if there is one. -/
theorem orStay_dispatchStep_frame (h : s.Running cfg) (hv : s.frame.rvis = s.frame.q.length) :
    (orStay (dispatchStep s) s).frame = s.frame.popped := by
  rw [dispatchStep, h.stopped, Fifo.pop_of_rvis_eq hv]
  cases hq : s.frame.q with
  | nil => exact (Fifo.popped_of_nil hv hq).symm
  | cons e q => simp [orStay, publish]

theorem orStay_dispatchStep_edge (s : State) : (orStay (dispatchStep s) s).edge = s.edge := by
  cases hd : dispatchStep s with
  | none => rfl
  | some t =>
    obtain ⟨-, f, g, -, rfl⟩ := dispatchStep_eq_some hd
    rfl

/-- The entries of both queues. -/
def State.queued (s : State) : Nat := s.edge.q.length + s.frame.q.length

/-- DECODE queues at most one frame for the edge it pops. -/
theorem orStay_decodeStep_queued_le (s : State) : (orStay (decodeStep s) s).queued ≤ s.queued := by
  cases hd : decodeStep s with
  | none => exact Nat.le_refl _
  | some t =>
    obtain ⟨-, e, f, hpop, rfl⟩ := decodeStep_eq_some hd
    have hedge : s.edge.q.length = f.q.length + 1 := by rw [Fifo.pop_q hpop, List.length_cons]
    have hframe : (consumeEdge e (s.setEdge f)).frame.q.length ≤ s.frame.q.length + 1 := by
      rcases (consumeEdge_frame_keptOrPushed e (s.setEdge f)).q_cases with hq | ⟨g, hq⟩ <;> simp [hq]
    simp only [orStay, Option.getD_some, State.queued, consumeEdge_edge, State.setEdge_edge]
    omega

/-- The edge half of a round takes the head off EQ, if there is one, and leaves both its views up to date. -/
theorem drainEdge_edge (h : s.Running cfg) : (drainEdge s).edge = .upToDate cfg.edgeDepth s.edge.q.tail := by
  have hsync := h.orStay (.esyncW2R s.edge.q.length)
  have hdec := hsync.orStay .decode
  rw [orStay_esyncW2R h] at hsync hdec
  rw [drainEdge, orStay_esyncW2R h, orStay_esyncR2W hdec, hdec.cfg_eq, State.setEdge_edge, orStay_decodeStep_edge hsync rfl]
  rfl

theorem drainEdge_queued_le (h : s.Running cfg) : (drainEdge s).queued ≤ s.queued := by
  have hdec := (h.orStay (.esyncW2R s.edge.q.length)).orStay .decode
  rw [drainEdge, orStay_esyncR2W hdec, orStay_esyncW2R h]
  exact orStay_decodeStep_queued_le (s.setEdge _)

/-- The frame half of a round takes the head off FQ, if there is one, and leaves both its views up to date. -/
theorem drainFrame_frame (h : s.Running cfg) : (drainFrame s).frame = .upToDate cfg.frameDepth s.frame.q.tail := by
  have hsync := h.orStay (.fsyncW2R s.frame.q.length)
  have hdisp := hsync.orStay .dispatch
  rw [orStay_fsyncW2R h] at hsync hdisp
  rw [drainFrame, orStay_fsyncW2R h, orStay_fsyncR2W hdisp, hdisp.cfg_eq, State.setFrame_frame,
    orStay_dispatchStep_frame hsync rfl]
  rfl

theorem drainFrame_edge (h : s.Running cfg) : (drainFrame s).edge = s.edge := by
  have hdisp := (h.orStay (.fsyncW2R s.frame.q.length)).orStay .dispatch
  rw [drainFrame, orStay_fsyncR2W hdisp, State.setFrame_edge, orStay_dispatchStep_edge, orStay_fsyncW2R h, State.setFrame_edge]

theorem drainRound_edge (h : s.Running cfg) : (drainRound s).edge = .upToDate cfg.edgeDepth s.edge.q.tail := by
  rw [drainRound_eq, drainFrame_edge h.drainEdge, drainEdge_edge h]

theorem drainRound_frame (h : s.Running cfg) :
    (drainRound s).frame = .upToDate cfg.frameDepth (drainEdge s).frame.q.tail := drainFrame_frame h.drainEdge

/-- A round takes an entry off the queues, if there is one: the frame it may queue it also dispatches. -/
theorem drainRound_queued_le (h : s.Running cfg) : (drainRound s).queued ≤ s.queued - 1 := by
  have hle := drainEdge_queued_le h
  simp only [State.queued, drainRound_edge h, drainRound_frame h, drainEdge_edge h, Fifo.upToDate, List.length_tail] at hle ⊢
  omega

/-- A round that begins with at most one entry queued leaves both FIFOs empty. -/
theorem drainRound_empty (h : s.Running cfg) (hq : s.queued ≤ 1) :
    (drainRound s).edge = .upToDate cfg.edgeDepth [] ∧ (drainRound s).frame = .upToDate cfg.frameDepth [] := by
  have hle := drainRound_queued_le h
  rw [drainRound_edge h, drainRound_frame h]
  simp only [State.queued, drainRound_edge h, drainRound_frame h, Fifo.upToDate] at hq hle
  rw [List.eq_nil_of_length_eq_zero (l := s.edge.q.tail) (by omega),
    List.eq_nil_of_length_eq_zero (l := (drainEdge s).frame.q.tail) (by omega)]
  exact ⟨rfl, rfl⟩

/-- Each round but the last takes an entry off the queues, and the last leaves the views up to date. -/
theorem drainRounds_empty {n : Nat} (h : s.Running cfg) (hq : s.queued ≤ n) :
    (drainRounds (n + 1) s).edge = .upToDate cfg.edgeDepth [] ∧
    (drainRounds (n + 1) s).frame = .upToDate cfg.frameDepth [] := by
  induction n generalizing s with
  | zero => exact drainRound_empty h (by omega)
  | succ n ih =>
    have hle := drainRound_queued_le h
    exact ih h.drainRound (by omega)

end Drain

/-- Settles O37: DRAIN has a round for each entry and one more. -/
theorem drainEmptiesBothQueues : Obligations.DrainEmptiesBothQueues := fun _ hinv hrun =>
  drainRounds_empty ⟨hinv, hrun, rfl⟩ (Nat.le_refl _)

/-! ### SET_FREQ (R114, R247) -/

/-- A literal that does not assemble leaves the line without a run (R113; log 19). -/
theorem runSetFreq_none {freq clock : Literal} {s : State}
    (h : dec64Operand s.cfg freq = none ∨ intOperand s.cfg clock = none) : runSetFreq freq clock s = none := by
  unfold runSetFreq
  cases hc : intOperand s.cfg clock with
  | none => rfl
  | some c =>
    have hf : dec64Operand s.cfg freq = none := h.resolve_right (by simp [hc])
    simp [runItem, setFreqFirst, assemble, hf]

/-- The answer of SET_FREQ is that of the second command after an OK, and the first command's error else. -/
theorem setFreqAnswer_of_ok {cfg : Config} {f c : U64} (h : (prescaleFromFreqAnswer cfg f c).status = .ok) :
    setFreqAnswer cfg f c = freqFromPrescaleAnswer cfg (prescaleFromFreqAnswer cfg f c).r0 c := if_pos h

theorem setFreqAnswer_of_not_ok {cfg : Config} {f c : U64} (h : (prescaleFromFreqAnswer cfg f c).status ≠ .ok) :
    setFreqAnswer cfg f c = prescaleFromFreqAnswer cfg f c := if_neg h

/-- Settles O59: the line's response is `setFreqAnswer`'s, which is the answer of the last command that ran. -/
theorem setFreqRunsBothCommands : Obligations.SetFreqRunsBothCommands := by
  intro s freq clock
  refine ⟨fun f c hf hc => ?_, runSetFreq_none⟩
  refine ⟨_, _, rfl, rfl, fun herr => ?_, fun hok => ⟨_, rfl, ?_⟩⟩
  · rw [runLine, runSetFreq_eq hf hc, setFreqAnswer_of_not_ok herr]
    rfl
  · rw [runLine, runSetFreq_eq hf hc, setFreqAnswer_of_ok hok]
    rfl

end Sys2Proof.Machine
end

/-! Proofs of the statements of 40_edge_ingest.md: EDGE (R130, R132), the synchronizers (R134, R135, R200, R201) and what stands
still while stopped (R132, R184, R210, R276). -/

namespace Sys2Proof.Machine

section

variable {α : Type} {f : Fifo α} {s : State}

/-! ### What a stopped block's turn can write (R132, R184, R210, R276) -/

/-- Rule R270: a second STOP changes nothing. -/
theorem State.setStopped_of_stopped (h : s.stopped = true) : s.setStopped = s := by
  rw [State.setStopped, ← h]

/-- While stopped, a turn but RESET writes the FIFOs' views and its response port at most. -/
theorem TurnCase.frame_of_stopped {t : State} {a : Action} (h : TurnCase s a t) (hstop : s.stopped = true)
    (hreset : a ≠ .rst 1) :
    t = { s with edge := { t.edge with q := s.edge.q }, frame := { t.frame with q := s.frame.q }, rsp := t.rsp } := by
  cases h with
  | noStep => rfl
  | answered => rfl
  | stopped =>
    rw [State.setStopped_of_stopped hstop]
    rfl
  | reset => exact absurd rfl hreset
  | esyncW2R k f hsync => rw [← Fifo.syncW2R_q hsync]; rfl
  | esyncR2W k f hsync => rw [← Fifo.syncR2W_q hsync]; rfl
  | fsyncW2R k f hsync => rw [← Fifo.syncW2R_q hsync]; rfl
  | fsyncR2W k f hsync => rw [← Fifo.syncR2W_q hsync]; rfl
  | edgeDropped _ hrun | edgeQueued _ _ _ hrun | decoded _ _ hrun | dispatched _ _ hrun =>
    exact absurd hstop (Bool.eq_false_iff.mp hrun)

/-! ### EDGE (R130, R132) -/

theorem Fifo.push_of_free (e : α) (h : f.wfree ≠ 0) :
    f.push e = some { f with q := f.q ++ [e], wfree := f.wfree - 1 } := if_neg h

variable {rising : Bool} {ts : I64}

theorem execEdge_of_stopped (h : s.stopped = true) : execEdge rising ts s = .next s := if_pos h

theorem execEdge_of_full (hrun : ¬ s.stopped = true) (hfull : s.edge.wfree = 0) :
    execEdge rising ts s = .next (s.setCnt s.cnt.incEdgeDrop) := by
  rw [execEdge, if_neg hrun, Fifo.push_eq_none.mpr hfull]

theorem execEdge_of_free (hrun : ¬ s.stopped = true) (hfree : s.edge.wfree ≠ 0) :
    execEdge rising ts s =
      .next (s.setEdge { s.edge with q := s.edge.q ++ [⟨rising, ts⟩], wfree := s.edge.wfree - 1 }) := by
  rw [execEdge, if_neg hrun, Fifo.push_of_free _ hfree]

/-! ### The synchronizers (R134, R135, R200, R201) -/

variable {k depth : Nat}

/-- A write-to-read synchronizer's turn with a legal draw, whichever FIFO `set` writes. -/
theorem runAgent_syncW2R (set : Fifo α → State) (hlow : f.rvis ≤ k) (hhigh : k ≤ f.q.length) :
    runAgent ((f.syncW2R k).map set) s = .next (set { f with rvis := k }) := by
  rw [Fifo.syncW2R, if_pos ⟨hlow, hhigh⟩]
  rfl

/-- A read-to-write synchronizer's turn with a legal draw, whichever FIFO `set` writes. -/
theorem runAgent_syncR2W (set : Fifo α → State) (hlow : f.wfree ≤ k) (hhigh : k + f.q.length ≤ depth) :
    runAgent ((f.syncR2W depth k).map set) s = .next (set { f with wfree := k }) := by
  rw [Fifo.syncR2W, if_pos ⟨hlow, hhigh⟩]
  rfl

end

/-- Settles O52: the views and the response port, all that a stopped block's turn can write, are none of what stands still. -/
theorem stoppedFreezesPipeline : Obligations.StoppedFreezesPipeline := by
  intro s t hstop hstep hreset
  rw [(step_cases hstep).frame_of_stopped (by rwa [State.taken_stopped]) hreset]
  simp [hstop]

/-- Settles O33: the word is the encoding of its EDGE, and EDGE has one equation per branch. -/
theorem edgeIsQueuedOrDropped : Obligations.EdgeIsQueuedOrDropped := by
  intro s rising ts
  refine ⟨decodeEncodeAgree (.edge rising ts) rfl, ?_⟩
  split_ifs with hstop hfull
  · exact execEdge_of_stopped hstop
  · exact execEdge_of_full hstop hfull
  · exact execEdge_of_free hstop hfull

/-- Settles O34. -/
theorem synchronizersWriteTheirView : Obligations.SynchronizersWriteTheirView := fun s _ =>
  ⟨runAgent_syncW2R (s.setEdge ·), runAgent_syncR2W (s.setEdge ·),
    runAgent_syncW2R (s.setFrame ·), runAgent_syncR2W (s.setFrame ·)⟩

end Sys2Proof.Machine

/-! Proofs of the statements of 41_cycle_assembler.md: DECODE of one edge (R151 to R156) and the lengths of a cycle (R157). -/

namespace Sys2Proof.Machine

/-- DECODE takes its step when the block runs and its view shows an edge (R170). -/
theorem turn_decode_of_pop {s : State} {e : EdgeRec} {f : Fifo EdgeRec} (hrun : s.stopped = false)
    (hpop : s.edge.pop = some (e, f)) : turn .decode s = .next (consumeEdge e (s.setEdge f)) := by
  simp [turn, runAgent, decodeStep, hrun, hpop]

/-! ### A popped edge in each phase and polarity (R151 to R156) -/

section ConsumeEdge

variable {s : State} (ts : I64)

/-- Rule R151. -/
theorem consumeEdge_empty_fall (h : s.asm.phase = .empty) : consumeEdge ⟨false, ts⟩ s = asmEmptyFall ts s := by
  rw [consumeEdge, asmStep, h]

/-- Rule R152. -/
theorem consumeEdge_empty_rise (h : s.asm.phase = .empty) : consumeEdge ⟨true, ts⟩ s = s := by
  rw [consumeEdge, asmStep, h, asmEmptyRise]

/-- Rule R153. -/
theorem consumeEdge_low_fall (h : s.asm.phase = .low) : consumeEdge ⟨false, ts⟩ s = asmLowFall ts s := by
  rw [consumeEdge, asmStep, h]

/-- Rule R154. -/
theorem consumeEdge_low_rise (h : s.asm.phase = .low) : consumeEdge ⟨true, ts⟩ s = asmLowRise ts s := by
  rw [consumeEdge, asmStep, h]

/-- Rule R155. -/
theorem consumeEdge_high_rise (h : s.asm.phase = .high) : consumeEdge ⟨true, ts⟩ s = asmHighRise s := by
  rw [consumeEdge, asmStep, h]

/-- Rule R156: the decoder runs on the state in which the edge has opened the next cycle. -/
theorem consumeEdge_high_fall (h : s.asm.phase = .high) :
    consumeEdge ⟨false, ts⟩ s = decStep (asmCycle ts s.asm) (asmHighFall ts s) := by
  rw [consumeEdge, asmStep, h]

end ConsumeEdge

/-- Settles O39: DECODE pops the edge, and `consumeEdge` has one equation per phase and polarity. -/
theorem assemblerRules : Obligations.AssemblerRules := by
  intro s ts rising q hrun hvis hq edge'
  have hturn : turn .decode s = .next (consumeEdge ⟨rising, ts⟩ (s.setEdge edge')) :=
    turn_decode_of_pop hrun (Fifo.pop_cons s.edge hvis hq)
  refine ⟨?emptyFall, ?emptyRise, ?lowFall, ?lowRise, ?highRise, ?highFall⟩ <;> rintro hphase rfl <;>
    refine hturn.trans (congrArg Host.Outcome.next ?_)
  case emptyFall => exact consumeEdge_empty_fall ts hphase
  case emptyRise => exact consumeEdge_empty_rise ts hphase
  case lowFall => exact consumeEdge_low_fall ts hphase
  case lowRise => exact consumeEdge_low_rise ts hphase
  case highRise => exact consumeEdge_high_rise ts hphase
  case highFall => exact consumeEdge_high_fall ts hphase

/-! ### Lengths (R13, R157) -/

/-- A difference that fits i64 does not wrap, whichever its sign (R13). -/
theorem sub64_toInt_of_fits {a b : I64} (hlow : -2 ^ 63 ≤ b.toInt - a.toInt) (hhigh : b.toInt - a.toInt < 2 ^ 63) :
    (sub64 b a).toInt = b.toInt - a.toInt := by
  rw [sub64, BitVec.toInt_sub, Int.bmod_eq_of_le] <;> omega

/-- Settles O40: the difference is in the nonnegative half of i64. -/
theorem monotoneLengthsDoNotWrap : Obligations.MonotoneLengthsDoNotWrap := by
  intro a b hmono hdiff
  have hexact : (sub64 b a).toInt = b.toInt - a.toInt := sub64_toInt_of_fits (by omega) hdiff
  exact ⟨by omega, hexact⟩

end Sys2Proof.Machine

/-! Proofs of the statements of 42_cppm_decoder.md: the rules of DEC_STEP (R171 to R179), the frame that a sync and N channel cycles
make, the readers' enabling conditions (R170, R205), overflow (R176) and the channel range (R175, R179). -/

namespace Sys2Proof.Machine

/-! ### Channel values (R175, R179) -/

theorem trunc32_chval (cfg : Config) (c : CycleRec) :
    trunc32 (chval cfg c) = (if cfg.valueSel = .high then c.highLength else c.lowLength + c.highLength).setWidth 32 := by
  cases h : cfg.valueSel <;> simp [trunc32, chval, CycleRec.length, add64, h]

/-- The low 32 bits of a value that fits i32 are that value. -/
theorem trunc32_toInt_of_fits {v : I64} (hlow : -2 ^ 31 ≤ v.toInt) (hhigh : v.toInt < 2 ^ 31) :
    (trunc32 v).toInt = v.toInt := by
  have hbmod : (trunc32 v).toInt = v.toInt.bmod (2 ^ 32) := by
    rw [trunc32, BitVec.toInt_setWidth, BitVec.toInt_eq_toNat_bmod, Int.bmod_bmod_of_dvd (by decide)]
  rw [hbmod, Int.bmod_eq_of_le] <;> omega

/-! ### The rule that DEC_STEP applies (R171) -/

section DecStep

variable {s : State} {c : CycleRec}

theorem isNoise_eq_true {cfg : Config} :
    isNoise cfg c = true ↔ (cfg.lowLimit : Int) ≤ c.lowLength.toInt ∨ c.highLength.toInt ≤ (cfg.lowLimit : Int) := by
  simp [isNoise]

theorem isNoise_eq_false {cfg : Config} :
    isNoise cfg c = false ↔ c.lowLength.toInt < (cfg.lowLimit : Int) ∧ (cfg.lowLimit : Int) < c.highLength.toInt := by
  simp [isNoise]

theorem isSync_eq_true {cfg : Config} : isSync cfg c = true ↔ (cfg.syncMin : Int) ≤ c.highLength.toInt := by
  simp [isSync]

theorem isSync_eq_false {cfg : Config} : isSync cfg c = false ↔ c.highLength.toInt < (cfg.syncMin : Int) := by
  simp [isSync]

theorem isSyncCycle_iff {cfg : Config} : IsSyncCycle cfg c ↔ isNoise cfg c = false ∧ isSync cfg c = true := by
  rw [isNoise_eq_false, isSync_eq_true, and_assoc]

theorem isChannelCycle_iff {cfg : Config} : IsChannelCycle cfg c ↔ isNoise cfg c = false ∧ isSync cfg c = false := by
  rw [isNoise_eq_false, isSync_eq_false, and_assoc]

/-- Rule R172. -/
theorem decStep_of_noise (h : isNoise s.cfg c = true) : decStep c s = noise s := if_pos h

/-- Rule R173. -/
theorem decStep_of_sync (h : IsSyncCycle s.cfg c) : decStep c s = sync c s := by
  obtain ⟨hnoise, hsync⟩ := isSyncCycle_iff.mp h
  simp [decStep, hnoise, hsync]

/-- Rule R174. -/
theorem decStep_of_idle (h : IsChannelCycle s.cfg c) (hidle : s.dec.state = .idle) : decStep c s = s := by
  obtain ⟨hnoise, hsync⟩ := isChannelCycle_iff.mp h
  simp [decStep, hnoise, hsync, hidle, ignore]

/-- Rule R175. -/
theorem decStep_of_capturing (h : IsChannelCycle s.cfg c) (hcapt : s.dec.state = .capturing) :
    decStep c s = capture c s := by
  obtain ⟨hnoise, hsync⟩ := isChannelCycle_iff.mp h
  simp [decStep, hnoise, hsync, hcapt]

/-! ### The three ends of CAPTURE (R175 to R178) -/

/-- Rule R176. -/
theorem decStep_of_overflow (h : IsChannelCycle s.cfg c) (hcapt : s.dec.state = .capturing)
    (hover : s.cfg.maxChannels ≤ s.dec.chIdx) : decStep c s = overflow s := by
  rw [decStep_of_capturing h hcapt, capture, if_pos hover]

/-- Rule R175: a channel before the last is stored. -/
theorem decStep_of_more (h : IsChannelCycle s.cfg c) (hcapt : s.dec.state = .capturing)
    (hroom : s.dec.chIdx < s.cfg.maxChannels) (hmore : s.dec.chIdx ≠ s.cfg.channelCount - 1) :
    decStep c s = s.setDec { s.dec with
      fbCh := s.dec.fbCh.set s.dec.chIdx (trunc32 (chval s.cfg c)), chIdx := s.dec.chIdx + 1 } := by
  rw [decStep_of_capturing h hcapt, capture, if_neg (Nat.not_le.mpr hroom), if_neg hmore]
  rfl

/-- Rule R177: the last channel completes the frame. -/
theorem decStep_of_last (h : IsChannelCycle s.cfg c) (hcapt : s.dec.state = .capturing)
    (hroom : s.dec.chIdx < s.cfg.maxChannels) (hlast : s.dec.chIdx = s.cfg.channelCount - 1) :
    decStep c s = complete (captureStore (trunc32 (chval s.cfg c)) s) := by
  rw [decStep_of_capturing h hcapt, capture, if_neg (Nat.not_le.mpr hroom), if_pos hlast]

theorem complete_of_full (h : s.frame.wfree = 0) :
    complete s = (s.setCnt s.cnt.incFrame.incFrameDrop).setDec s.dec.toIdle := by
  rw [complete, framePush, State.setCnt_frame, Fifo.push_eq_none.mpr h]
  rfl

theorem complete_of_free (h : 0 < s.frame.wfree) :
    complete s = ((s.setCnt s.cnt.incFrame).setFrame { s.frame with
      q := s.frame.q ++ [⟨s.dec.fbTs, s.dec.fbCh.take s.cfg.channelCount⟩], wfree := s.frame.wfree - 1 }).setDec
        s.dec.toIdle := by
  rw [complete, framePush, State.setCnt_frame, Fifo.push_of_free _ h.ne']

end DecStep

/-- Settles O41. -/
theorem noiseIsRejectedFirst : Obligations.NoiseIsRejectedFirst := fun _ _ h =>
  decStep_of_noise (isNoise_eq_true.mpr h)

/-- Settles O42. -/
theorem syncRestartsDecoding : Obligations.SyncRestartsDecoding := fun _ _ hlow hhigh hsync =>
  decStep_of_sync ⟨hlow, hhigh, hsync⟩

/-- Settles O43. -/
theorem channelCycleIsIgnoredOrStored : Obligations.ChannelCycleIsIgnoredOrStored := by
  intro s c hc
  refine ⟨decStep_of_idle hc, fun hcapt hroom hmore => ?_⟩
  rw [decStep_of_more hc hcapt hroom hmore, trunc32_chval]
  rfl

/-- Settles O44: the writer's view says whether the completed frame is queued. -/
theorem lastChannelCompletesFrame : Obligations.LastChannelCompletesFrame := by
  intro s c hc hcapt hroom hlast fb dec'
  rw [decStep_of_last hc hcapt hroom hlast, trunc32_chval]
  exact ⟨fun hfull => complete_of_full hfull, fun hfree => complete_of_free hfree⟩

/-- Settles O45. -/
theorem overflowDropsFrame : Obligations.OverflowDropsFrame := fun _ _ hc hcapt hover =>
  decStep_of_overflow hc hcapt hover

/-! ### A frame, cycle by cycle (R173, R175, R177) -/

/-- The frame buffer after a sync and the channels `vs`. -/
def frameBuffer (cfg : Config) (vs : List I32) : List I32 := vs ++ List.replicate (cfg.maxChannels - vs.length) 0

/-- The decoder while it captures a frame stamped `ts` whose channels so far are `vs`. -/
def Dec.capturing (cfg : Config) (ts : I64) (vs : List I32) : Dec := ⟨.capturing, vs.length, ts, frameBuffer cfg vs⟩

/-- The state after a frame stamped `ts` with all its channels `vs` is completed and queued. -/
def State.withFrame (s : State) (ts : I64) (vs : List I32) : State :=
  { s with
    dec := ⟨.idle, 0, ts, frameBuffer s.cfg vs⟩
    frame := { s.frame with q := s.frame.q ++ [⟨ts, vs⟩], wfree := s.frame.wfree - 1 }
    cnt := s.cnt.incFrame }

@[simp] theorem decCycles_cons (s : State) (c : CycleRec) (cs : List CycleRec) :
    decCycles s (c :: cs) = decCycles (decStep c s) cs := rfl

section Frame

variable {s : State} {c : CycleRec} {ts : I64} {vs : List I32}

theorem sync_eq_capturing : sync c s = s.setDec (.capturing s.cfg c.lowTime []) := rfl

theorem frameBuffer_set {cfg : Config} (v : I32) (hroom : vs.length < cfg.maxChannels) :
    (frameBuffer cfg vs).set vs.length v = frameBuffer cfg (vs ++ [v]) := by
  have hfree : cfg.maxChannels - vs.length = cfg.maxChannels - (vs ++ [v]).length + 1 := by
    rw [List.length_append, List.length_singleton]
    omega
  rw [frameBuffer, frameBuffer, hfree, List.set_append_right _ _ (Nat.le_refl _), Nat.sub_self, List.replicate_succ,
    List.set_cons_zero, List.append_assoc, List.singleton_append]

/-- Before the last one, a channel joins the captured ones. -/
theorem decStep_capturing_more (hc : IsChannelCycle s.cfg c) (hroom : s.cfg.channelCount ≤ s.cfg.maxChannels)
    (hmore : vs.length + 1 < s.cfg.channelCount) :
    decStep c (s.setDec (.capturing s.cfg ts vs)) =
      s.setDec (.capturing s.cfg ts (vs ++ [trunc32 (chval s.cfg c)])) := by
  have hidx : vs.length < s.cfg.maxChannels := by omega
  have hstep := decStep_of_more (s := s.setDec (.capturing s.cfg ts vs)) hc rfl hidx
    (show vs.length ≠ s.cfg.channelCount - 1 by omega)
  rw [hstep]
  simp only [State.setDec, Dec.capturing, frameBuffer_set _ hidx, List.length_append, List.length_singleton]

theorem captureStore_capturing (v : I32) (hroom : vs.length < s.cfg.maxChannels) :
    captureStore v (s.setDec (.capturing s.cfg ts vs)) =
      s.setDec ⟨.capturing, vs.length, ts, frameBuffer s.cfg (vs ++ [v])⟩ := by
  rw [← frameBuffer_set v hroom]
  rfl

/-- Completion queues the captured channels, at whatever index it happens. -/
theorem complete_capturing (i : Nat) (hfree : 0 < s.frame.wfree) (hlen : vs.length = s.cfg.channelCount) :
    complete (s.setDec ⟨.capturing, i, ts, frameBuffer s.cfg vs⟩) = s.withFrame ts vs := by
  have htake : (frameBuffer s.cfg vs).take s.cfg.channelCount = vs := List.take_left' hlen
  rw [complete_of_free, State.setDec_dec, State.setDec_cfg, htake]
  · rfl
  · exact hfree

/-- The N-th channel completes the frame and queues it. -/
theorem decStep_capturing_last (hc : IsChannelCycle s.cfg c) (hroom : s.cfg.channelCount ≤ s.cfg.maxChannels)
    (hfree : 0 < s.frame.wfree) (hlast : vs.length + 1 = s.cfg.channelCount) :
    decStep c (s.setDec (.capturing s.cfg ts vs)) = s.withFrame ts (vs ++ [trunc32 (chval s.cfg c)]) := by
  have hidx : vs.length < s.cfg.maxChannels := by omega
  have hstep := decStep_of_last (s := s.setDec (.capturing s.cfg ts vs)) hc rfl hidx
    (show vs.length = s.cfg.channelCount - 1 by omega)
  rw [hstep, State.setDec_cfg, captureStore_capturing _ hidx, complete_capturing _ hfree (by simpa using hlast)]

/-- The channel cycles that are missing from a captured frame complete it. -/
theorem decCycles_capturing {cs : List CycleRec} (hroom : s.cfg.channelCount ≤ s.cfg.maxChannels)
    (hfree : 0 < s.frame.wfree) (hcs : ∀ c ∈ cs, IsChannelCycle s.cfg c) (hmissing : vs.length < s.cfg.channelCount)
    (hlen : vs.length + cs.length = s.cfg.channelCount) :
    decCycles (s.setDec (.capturing s.cfg ts vs)) cs =
      s.withFrame ts (vs ++ cs.map fun c => trunc32 (chval s.cfg c)) := by
  induction cs generalizing vs with
  | nil => exact absurd hlen hmissing.ne
  | cons c cs ih =>
    obtain ⟨hc, hcs⟩ := List.forall_mem_cons.mp hcs
    rw [List.length_cons] at hlen
    rw [decCycles_cons]
    rcases Nat.lt_or_eq_of_le (Nat.succ_le_of_lt hmissing) with hmore | hlast
    · have hgrown : (vs ++ [trunc32 (chval s.cfg c)]).length = vs.length + 1 := List.length_append
      rw [decStep_capturing_more hc hroom hmore, ih hcs (by omega) (by omega), List.append_assoc]
      rfl
    · obtain rfl : cs = [] := List.eq_nil_of_length_eq_zero (by omega)
      exact decStep_capturing_last hc hroom hfree hlast

end Frame

/-- Settles O48: after the sync all N channels of the frame are missing. -/
theorem syncAndChannelsMakeOneFrame : Obligations.SyncAndChannelsMakeOneFrame := by
  intro s sy cs hlegal hroom hfree hsync hlen hcs
  obtain ⟨⟨hN, -⟩, -⟩ := hlegal
  have hframe : decCycles s (sy :: cs) = s.withFrame sy.lowTime (cs.map fun c => trunc32 (chval s.cfg c)) := by
    rw [decCycles_cons, decStep_of_sync hsync, sync_eq_capturing,
      decCycles_capturing (vs := []) hroom hfree hcs hN (by simpa using hlen), List.nil_append]
  simp only [← trunc32_chval]
  rw [hframe, State.withFrame, frameBuffer, List.length_map, hlen]
  rfl

/-! ### The readers' enabling conditions (R77, R170, R205) -/

/-- A pessimistic view above 0 shows an entry that is there (R35). -/
theorem Fifo.isSome_pop {α : Type} {depth : Nat} {f : Fifo α} (h : f.Ok depth) : f.pop.isSome ↔ 0 < f.rvis := by
  obtain ⟨hview, -⟩ := h
  have hnil : f.q = [] → f.rvis = 0 := fun hq => by simpa [hq] using hview
  rw [Option.isSome_iff_ne_none, ne_eq, Fifo.pop_eq_none, or_iff_left_of_imp hnil, Nat.pos_iff_ne_zero]

theorem isSome_decodeStep (s : State) : (decodeStep s).isSome ↔ s.stopped = false ∧ s.edge.pop.isSome := by
  cases hstop : s.stopped <;> simp [decodeStep, hstop]

theorem isSome_dispatchStep (s : State) : (dispatchStep s).isSome ↔ s.stopped = false ∧ s.frame.pop.isSome := by
  cases hstop : s.stopped <;> simp [dispatchStep, hstop]

/-- Settles O35. -/
theorem readersWaitOnlyForTheirView : Obligations.ReadersWaitOnlyForTheirView := by
  intro s h
  rw [isSome_decodeStep, isSome_dispatchStep, Fifo.isSome_pop h.edge, Fifo.isSome_pop h.frame]
  exact ⟨Iff.rfl, Iff.rfl⟩

/-! ### Overflow (R176) -/

/-- No overflow is counted or announced from `s` to `t`. -/
def NoOverflow (s t : State) : Prop :=
  t.cnt.ovf = s.cnt.ovf ∧ ∀ ts, Event.ovfEvt ts ∉ t.hist.drop s.hist.length

section Overflow

variable {s t : State} {c : CycleRec}

theorem NoOverflow.of_hist_eq (hcnt : t.cnt.ovf = s.cnt.ovf) (hhist : t.hist = s.hist) : NoOverflow s t :=
  ⟨hcnt, by simp [hhist]⟩

theorem complete_ovf (s : State) : (complete s).cnt.ovf = s.cnt.ovf := by
  rcases complete_cnt s with h | h <;> rw [h] <;> rfl

/-- CAPTURE overflows only at an index the frame buffer does not have. -/
theorem capture_noOverflow (hidx : s.dec.chIdx < s.cfg.maxChannels) : NoOverflow s (capture c s) := by
  rcases capture_cases c s with ⟨hover, -⟩ | ⟨-, -, h⟩ | ⟨-, -, h⟩
  · exact absurd hidx (Nat.not_lt.mpr hover)
  · rw [h]
    exact .of_hist_eq (complete_ovf _) (complete_hist _)
  · rw [h]
    exact .of_hist_eq rfl rfl

theorem decStep_noOverflow (hidx : s.dec.state = .capturing → s.dec.chIdx < s.cfg.maxChannels) :
    NoOverflow s (decStep c s) := by
  rcases decStep_cases c s with ⟨-, h⟩ | ⟨-, -, h⟩ | ⟨-, -, -, h⟩ | ⟨-, -, hcapt, h⟩ <;> rw [h]
  · exact .of_hist_eq rfl rfl
  · exact .of_hist_eq rfl rfl
  · exact .of_hist_eq rfl rfl
  · exact capture_noOverflow (hidx hcapt)

theorem consumeEdge_noOverflow (e : EdgeRec) (hidx : s.dec.state = .capturing → s.dec.chIdx < s.cfg.maxChannels) :
    NoOverflow s (consumeEdge e s) := by
  rcases consumeEdge_asm_or_dec e s with ⟨a, c, hc, h⟩ | h <;> rw [h]
  · rcases hc with rfl | rfl <;> exact .of_hist_eq rfl rfl
  · exact decStep_noOverflow (s := asmHighFall e.ts s) hidx

/-- Rule R41's bound on CH_IDX is below M where N is at most M. -/
theorem State.Inv.chIdx_lt (h : s.Inv) (hN : 1 ≤ s.cfg.channelCount) (hroom : s.cfg.channelCount ≤ s.cfg.maxChannels)
    (hcapt : s.dec.state = .capturing) : s.dec.chIdx < s.cfg.maxChannels := by
  obtain ⟨-, -, hidx⟩ := h.dec
  have := hidx hcapt
  omega

theorem TurnCase.noOverflow {a : Action} (h : TurnCase s a t) (hreset : a ≠ .rst 1)
    (hidx : s.dec.state = .capturing → s.dec.chIdx < s.cfg.maxChannels) : NoOverflow s t := by
  cases h with
  | reset => exact absurd rfl hreset
  | decoded e f _ _ => exact consumeEdge_noOverflow (s := s.setEdge f) e hidx
  | dispatched f g _ _ => exact ⟨rfl, by simp [publish]⟩
  | _ => exact .of_hist_eq rfl rfl

end Overflow

/-- Settles O46: the invariant keeps CH_IDX inside the frame buffer, so no CAPTURE overflows. -/
theorem overflowNeedsMoreChannelsThanBuffer : Obligations.OverflowNeedsMoreChannelsThanBuffer := by
  intro s t hinv hroom hstep hreset
  obtain ⟨⟨⟨hN, -⟩, -⟩, -⟩ := step_eq_next hstep
  have hnone := (step_cases hstep).noOverflow hreset (by simpa using hinv.chIdx_lt hN hroom)
  simpa [NoOverflow] using hnone

/-! ### The channel range (R175, R179) -/

section InRange

variable {s t : State} {c : CycleRec}

/-- Rule R179: a channel cycle's high half lies between the thresholds, and SYNC_MIN fits i32. -/
theorem channelInRange_of_high {cfg : Config} (hmax : cfg.syncMin ≤ 2 ^ 31 - 1) (hhigh : cfg.valueSel = .high)
    (hc : IsChannelCycle cfg c) : ChannelInRange cfg (trunc32 (chval cfg c)) := by
  obtain ⟨-, hlow, hsync⟩ := hc
  have hval : chval cfg c = c.highLength := by simp [chval, hhigh]
  have hfits : (trunc32 c.highLength).toInt = c.highLength.toInt := trunc32_toInt_of_fits (by omega) (by omega)
  rw [hval, ChannelInRange, hfits]
  exact ⟨hlow, hsync⟩

/-- The entries up to the one written are the earlier ones and the new one. -/
theorem mem_take_set {α : Type} {l : List α} {i : Nat} {v x : α} (h : x ∈ (l.set i v).take (i + 1)) :
    x ∈ l.take i ∨ x = v := by
  rw [List.take_add_one, List.take_set_of_le (Nat.le_refl i), List.mem_append] at h
  refine h.imp_right fun hlast => ?_
  obtain ⟨-, rfl⟩ : i < l.length ∧ v = x := by simpa [List.getElem?_set] using hlast
  rfl

theorem State.InRange.taken (h : s.InRange) : s.taken.InRange where
  captured := by simpa using h.captured
  queued := by simpa using h.queued
  published := by simpa using h.published

theorem powerOn_inRange (cfg : Config) : (State.powerOn cfg).InRange where
  captured := by simp [State.powerOn]
  queued := by simp [State.powerOn]
  published := .inl rfl

theorem State.InRange.clear (s : State) : s.clear.InRange := { powerOn_inRange s.cfg with }

/-- At CH_IDX 0 nothing is captured. -/
theorem State.InRange.setDec_of_chIdx_eq_zero (h : s.InRange) {d : Dec} (hidx : d.chIdx = 0) : (s.setDec d).InRange :=
  { h with captured := by simp [hidx] }

theorem State.InRange.framePush (h : s.InRange) {f : FrameRec} (hf : ∀ v ∈ f.ch, ChannelInRange s.cfg v) :
    (framePush f s).InRange := by
  rcases framePush_cases f s with ⟨-, hp⟩ | ⟨-, hp⟩ <;> rw [hp]
  · exact { h with }
  · refine { h with queued := List.forall_mem_append.mpr ⟨h.queued, ?_⟩ }
    exact List.forall_mem_singleton.mpr hf

theorem State.InRange.complete (h : s.InRange)
    (hf : ∀ v ∈ s.dec.fbCh.take s.cfg.channelCount, ChannelInRange s.cfg v) : (complete s).InRange :=
  (State.InRange.framePush (s := s.setCnt s.cnt.incFrame) { h with } hf).setDec_of_chIdx_eq_zero rfl

/-- CAPTURE stores a value in range at CH_IDX; the completed frame has the channels up to that one. -/
theorem State.InRange.capture (h : s.InRange) (hv : ChannelInRange s.cfg (trunc32 (chval s.cfg c))) :
    (capture c s).InRange := by
  have hstored : ∀ v ∈ (s.dec.fbCh.set s.dec.chIdx (trunc32 (chval s.cfg c))).take (s.dec.chIdx + 1),
      ChannelInRange s.cfg v := by
    intro v hmem
    rcases mem_take_set hmem with hold | rfl
    · exact h.captured v hold
    · exact hv
  rcases capture_cases c s with ⟨-, hc⟩ | ⟨-, hlast, hc⟩ | ⟨-, -, hc⟩ <;> rw [hc]
  · exact State.InRange.setDec_of_chIdx_eq_zero (s := (s.setCnt s.cnt.incOvf).emit _) { h with } rfl
  · have hN : s.cfg.channelCount ≤ s.dec.chIdx + 1 := by omega
    have hkept : (captureStore (trunc32 (chval s.cfg c)) s).InRange :=
      { h with captured := fun v hmem => hstored v (List.take_subset_take_left _ (Nat.le_succ _) hmem) }
    exact hkept.complete fun v hmem => hstored v (List.take_subset_take_left _ hN hmem)
  · exact { h with captured := hstored }

theorem State.InRange.decStep (h : s.InRange) (hmax : s.cfg.syncMin ≤ 2 ^ 31 - 1) (hhigh : s.cfg.valueSel = .high) :
    (decStep c s).InRange := by
  rcases decStep_cases c s with ⟨-, hd⟩ | ⟨-, -, hd⟩ | ⟨-, -, -, hd⟩ | ⟨hnoise, hsync, -, hd⟩ <;> rw [hd]
  · exact { h.setDec_of_chIdx_eq_zero (d := s.dec.toIdle) rfl with }
  · exact h.setDec_of_chIdx_eq_zero rfl
  · exact h
  · exact h.capture (channelInRange_of_high hmax hhigh (isChannelCycle_iff.mpr ⟨hnoise, hsync⟩))

theorem State.InRange.consumeEdge (h : s.InRange) (hmax : s.cfg.syncMin ≤ 2 ^ 31 - 1) (hhigh : s.cfg.valueSel = .high)
    (e : EdgeRec) : (consumeEdge e s).InRange := by
  rcases consumeEdge_asm_or_dec e s with ⟨a, c, -, he⟩ | he <;> rw [he]
  · exact { h with }
  · exact State.InRange.decStep (s := asmHighFall e.ts s) { h with } hmax hhigh

theorem TurnCase.inRange {a : Action} (ht : TurnCase s a t) (h : s.InRange) (hmax : s.cfg.syncMin ≤ 2 ^ 31 - 1)
    (hhigh : s.cfg.valueSel = .high) : t.InRange := by
  cases ht with
  | reset => exact { State.InRange.clear s with }
  | fsyncW2R k f hsync => exact { h with queued := Fifo.syncW2R_q hsync ▸ h.queued }
  | fsyncR2W k f hsync => exact { h with queued := Fifo.syncR2W_q hsync ▸ h.queued }
  | decoded e f _ _ => exact State.InRange.consumeEdge (s := s.setEdge f) { h with } hmax hhigh e
  | dispatched f g _ hpop =>
    obtain ⟨hf, hrest⟩ := List.forall_mem_cons.mp (Fifo.pop_q hpop ▸ h.queued)
    exact { h with queued := hrest, published := .inr hf }
  | _ => exact { h with }

end InRange

/-- Settles O57, by the cases of a turn: DECODE is the only one that brings in a channel, and its block is legal. -/
theorem stepKeepsChannelsInRange : Obligations.StepKeepsChannelsInRange := by
  intro s t h hhigh hstep
  obtain ⟨⟨-, -, ⟨-, hmax⟩, -⟩, -⟩ := step_eq_next hstep
  exact (step_cases hstep).inRange h.taken (by rwa [State.taken_cfg]) (by rwa [State.taken_cfg])

/-- Settles O58. -/
theorem resetMeetsChannelRange : Obligations.ResetMeetsChannelRange := ⟨powerOn_inRange Config.block, powerOn_inRange⟩

end Sys2Proof.Machine

/-! Proofs of the statements of 43_frame_dispatch.md: READ_CHANNELS (R208), DISPATCH (R205, R206), and that a fair run publishes every
frame of FQ (R202, R213). -/

namespace Sys2Proof.Machine

/-! ### READ_CHANNELS (R208) -/

theorem exec_readChannels (s : State) :
    exec .readChannels s = .next (s.respond ⟨.ok, s.store.seq, s.store.pubTs, s.store.pubCh⟩) := rfl

/-- Settles O27: the word is one of O1's, and the one write is the response. -/
theorem readChannelsReturnsSnapshot : Obligations.ReadChannelsReturnsSnapshot := by
  intro s a b c
  obtain ⟨-, -, -, -, -, -, hdecode, -, -⟩ := commandWordsDecode a b c
  exact ⟨hdecode, exec_readChannels s⟩

/-! ### DISPATCH (R205, R206) -/

/-- DISPATCH takes its step when the block runs and its view shows a frame (R205). -/
theorem turn_dispatch_of_pop {s : State} {f : FrameRec} {g : Fifo FrameRec} (hrun : s.stopped = false)
    (hpop : s.frame.pop = some (f, g)) : turn .dispatch s = .next (publish f (s.setFrame g)) := by
  simp [turn, runAgent, dispatchStep, hrun, hpop]

/-- Settles O30. -/
theorem dispatchPublishesOldestFrame : Obligations.DispatchPublishesOldestFrame := fun s _ _ hrun hvis hq =>
  turn_dispatch_of_pop hrun (Fifo.pop_cons s.frame hvis hq)

/-! ### What a FIFO keeps while its reader does not pop (R75, R134) -/

section Fifo

variable {α : Type} {f g k : Fifo α} {n depth : Nat}

/-- The entries stay where they are, with others behind them at most, and the reader's view does not shrink. -/
def Fifo.GrowsTo (f g : Fifo α) : Prop := f.q <+: g.q ∧ f.rvis ≤ g.rvis

theorem Fifo.GrowsTo.refl (f : Fifo α) : f.GrowsTo f := ⟨List.prefix_rfl, Nat.le_refl _⟩

theorem Fifo.GrowsTo.trans (hfg : f.GrowsTo g) (hgk : g.GrowsTo k) : f.GrowsTo k :=
  ⟨hfg.1.trans hgk.1, hfg.2.trans hgk.2⟩

theorem Fifo.KeptOrPushed.growsTo (h : f.KeptOrPushed g) : f.GrowsTo g := by
  rcases h with rfl | ⟨e, hpush⟩
  · exact .refl g
  · obtain ⟨-, rfl⟩ := Fifo.push_eq_some hpush
    exact ⟨List.prefix_append _ _, Nat.le_refl _⟩

theorem Fifo.growsTo_of_syncW2R (h : f.syncW2R n = some g) : f.GrowsTo g := by
  obtain ⟨⟨hle, -⟩, rfl⟩ := Fifo.syncW2R_eq_some h
  exact ⟨List.prefix_rfl, hle⟩

theorem Fifo.growsTo_of_syncR2W (h : f.syncR2W depth n = some g) : f.GrowsTo g := by
  obtain ⟨-, rfl⟩ := Fifo.syncR2W_eq_some h
  exact .refl f

end Fifo

/-- Only a RESET, or a DISPATCH whose view shows a frame, takes frames out of FQ or shrinks its reader's view. -/
theorem TurnCase.frame_growsTo {s t : State} {a : Action} (h : TurnCase s a t) (hreset : a ≠ .rst 1)
    (hpop : ¬ (a = .dispatch ∧ 0 < s.frame.rvis)) : s.frame.GrowsTo t.frame := by
  cases h with
  | reset => exact absurd rfl hreset
  | fsyncW2R k f hsync => exact Fifo.growsTo_of_syncW2R hsync
  | fsyncR2W k f hsync => exact Fifo.growsTo_of_syncR2W hsync
  | decoded e f _ _ => exact (consumeEdge_frame_keptOrPushed e (s.setEdge f)).growsTo
  | dispatched f g _ hpopped => exact absurd ⟨rfl, (Fifo.pop_eq_some hpopped).1⟩ hpop
  | _ => exact .refl _

/-! ### Runs (R15, R136) -/

section Run

variable {sched : Nat → Action} {σ : Nat → State}

theorem IsRun.turnCase (h : IsRun sched σ) (n : Nat) : TurnCase (σ n) (sched n) (σ (n + 1)) := turn_cases (h n).2

theorem IsRun.cfg_eq (h : IsRun sched σ) (n : Nat) : (σ n).cfg = (σ 0).cfg := by
  induction n with
  | zero => rfl
  | succ n ih => rw [(h.turnCase n).cfg_eq, ih]

theorem IsRun.inv (h : IsRun sched σ) (h0 : (σ 0).Inv) (n : Nat) : (σ n).Inv := by
  induction n with
  | zero => exact h0
  | succ n ih => exact (h.turnCase n).inv ih

end Run

/-! ### Eventual delivery (R213) -/

/-- The runs R213 speaks of: fair, never stopped, never reset, and begun in a state of the invariant. -/
structure DeliveringRun (sched : Nat → Action) (σ : Nat → State) : Prop where
  fair : FairRun sched σ
  inv : (σ 0).Inv
  running : ∀ n, (σ n).stopped = false
  noReset : ∀ n, sched n ≠ .rst 1

/-- Turn `n` is a DISPATCH whose view shows a frame. -/
def PopsFrame (sched : Nat → Action) (σ : Nat → State) (n : Nat) : Prop := sched n = .dispatch ∧ 0 < (σ n).frame.rvis

/-- Turn `n` is a DISPATCH, and `f` is the snapshot it publishes (R206). -/
def Publishes (sched : Nat → Action) (σ : Nat → State) (f : FrameRec) (n : Nat) : Prop :=
  sched n = .dispatch ∧ (σ (n + 1)).store = { seq := (σ n).store.seq + 1, pubTs := f.ts, pubCh := f.ch }

/-- A bounded sequence that never falls is constant from some point on. -/
theorem exists_const_of_monotone_of_le {u : Nat → Nat} {b : Nat} (hmono : Monotone u) (hle : ∀ n, u n ≤ b) :
    ∃ v k, ∀ n, k ≤ n → u n = v := by
  have hlim := tendsto_atTop_ciSup hmono ⟨b, Set.forall_mem_range.mpr hle⟩
  rw [nhds_discrete, Filter.tendsto_pure, Filter.eventually_atTop] at hlim
  exact ⟨_, hlim⟩

section Delivery

variable {sched : Nat → Action} {σ : Nat → State} {n m : Nat}

theorem DeliveringRun.frame_ok (h : DeliveringRun sched σ) (n : Nat) : (σ n).frame.Ok (σ 0).cfg.frameDepth := by
  rw [← h.fair.run.cfg_eq n]
  exact (h.fair.run.inv h.inv n).frame

theorem DeliveringRun.frame_growsTo_succ (h : DeliveringRun sched σ) (hpop : ¬ PopsFrame sched σ n) :
    (σ n).frame.GrowsTo (σ (n + 1)).frame :=
  (h.fair.run.turnCase n).frame_growsTo (h.noReset n) hpop

theorem DeliveringRun.frame_growsTo (h : DeliveringRun sched σ) (hnone : ∀ i, n ≤ i → ¬ PopsFrame sched σ i) (hle : n ≤ m) :
    (σ n).frame.GrowsTo (σ m).frame := by
  induction m, hle using Nat.le_induction with
  | base => exact .refl _
  | succ m hle ih => exact ih.trans (h.frame_growsTo_succ (hnone m hle))

/-- If FQ is never popped, its length, which its depth bounds, becomes constant. -/
theorem DeliveringRun.exists_const_length (h : DeliveringRun sched σ) (hnone : ∀ i, n ≤ i → ¬ PopsFrame sched σ i) :
    ∃ v k, n ≤ k ∧ ∀ m, k ≤ m → (σ m).frame.q.length = v := by
  have hmono : Monotone fun i => (σ (n + i)).frame.q.length := monotone_nat_of_le_succ fun i =>
    (h.frame_growsTo_succ (hnone (n + i) (Nat.le_add_right n i))).1.length_le
  have hbound (i : Nat) : (σ (n + i)).frame.q.length ≤ (σ 0).cfg.frameDepth :=
    (Nat.le_add_left _ _).trans (h.frame_ok (n + i)).2
  obtain ⟨v, k, hconst⟩ := exists_const_of_monotone_of_le hmono hbound
  refine ⟨v, n + k, Nat.le_add_right n k, fun m hm => ?_⟩
  obtain ⟨i, rfl⟩ := Nat.exists_eq_add_of_le hm
  rw [Nat.add_assoc]
  exact hconst (k + i) (Nat.le_add_right k i)

/-- The synchronizer's copy of the length of FQ (R200). -/
theorem DeliveringRun.rvis_of_fsyncW2R (h : DeliveringRun sched σ) (hact : sched m = .fsyncW2R (σ m).frame.q.length) :
    (σ (m + 1)).frame.rvis = (σ m).frame.q.length := by
  obtain ⟨hview, -⟩ := h.frame_ok m
  obtain ⟨-, -, hcopy, -⟩ := synchronizersWriteTheirView (σ m) (σ m).frame.q.length
  have hturn := (h.fair.run m).2
  rw [hact, hcopy hview (Nat.le_refl _)] at hturn
  injection hturn with hnext
  rw [← hnext]

/-- A queued frame does not wait forever: were FQ never popped, its length would become constant and so be copied into the reader's
view (R202); DISPATCH would then be enabled for good, and so be taken (R213). -/
theorem DeliveringRun.exists_popsFrame (h : DeliveringRun sched σ) (hq : (σ n).frame.q ≠ []) :
    ∃ m, n ≤ m ∧ PopsFrame sched σ m := by
  by_contra! hnone
  obtain ⟨v, k, hnk, hconst⟩ := h.exists_const_length hnone
  obtain ⟨l, hkl, hsync⟩ := h.fair.fsync.1 v k hconst
  rw [← hconst l hkl] at hsync
  have hnl : n ≤ l := hnk.trans hkl
  have hpos : 0 < (σ (l + 1)).frame.rvis := by
    rw [h.rvis_of_fsyncW2R hsync]
    exact (List.length_pos_of_ne_nil hq).trans_le (h.frame_growsTo hnone hnl).1.length_le
  have hvis (m : Nat) (hm : l + 1 ≤ m) : 0 < (σ m).frame.rvis :=
    hpos.trans_le (h.frame_growsTo (fun i hi => hnone i (by omega)) hm).2
  have henabled (m : Nat) (hm : l + 1 ≤ m) : (dispatchStep (σ m)).isSome :=
    (isSome_dispatchStep _).mpr ⟨h.running m, (Fifo.isSome_pop (h.frame_ok m)).mpr (hvis m hm)⟩
  obtain ⟨m, hm, hact⟩ := h.fair.disp (l + 1) henabled (l + 1)
  exact hnone m (by omega) ⟨hact, hvis m hm⟩

/-- Until the pop the queued frames keep their places: otherwise no later turn would pop. -/
theorem DeliveringRun.exists_popsFrame_prefix (h : DeliveringRun sched σ) (hq : (σ n).frame.q ≠ []) :
    ∃ m, n ≤ m ∧ (σ n).frame.q <+: (σ m).frame.q ∧ PopsFrame sched σ m := by
  by_contra! hnone
  have hprefix (m : Nat) (hm : n ≤ m) : (σ n).frame.q <+: (σ m).frame.q := by
    induction m, hm using Nat.le_induction with
    | base => exact List.prefix_rfl
    | succ m hm ih => exact ih.trans (h.frame_growsTo_succ (hnone m hm ih)).1
  obtain ⟨m, hm, hpop⟩ := h.exists_popsFrame hq
  exact hnone m hm (hprefix m hm) hpop

/-- A DISPATCH that pops publishes the head of FQ and leaves the rest (R205, R206). -/
theorem DeliveringRun.publishes_head (h : DeliveringRun sched σ) {f : FrameRec} {q : List FrameRec}
    (hpop : PopsFrame sched σ m) (hq : (σ m).frame.q = f :: q) : Publishes sched σ f m ∧ (σ (m + 1)).frame.q = q := by
  obtain ⟨hact, hvis⟩ := hpop
  have hturn := (h.fair.run m).2
  rw [hact, dispatchPublishesOldestFrame (σ m) f q (h.running m) hvis hq] at hturn
  injection hturn with hnext
  rw [Publishes, ← hnext]
  exact ⟨⟨hact, rfl⟩, rfl⟩

/-- The head of FQ is published, and the frames behind it move up. -/
theorem DeliveringRun.exists_publishes_head (h : DeliveringRun sched σ) {f : FrameRec} {q : List FrameRec}
    (hq : (σ n).frame.q = f :: q) :
    ∃ m pushed, n ≤ m ∧ Publishes sched σ f m ∧ (σ (m + 1)).frame.q = q ++ pushed := by
  obtain ⟨m, hm, ⟨pushed, hpushed⟩, hpop⟩ := h.exists_popsFrame_prefix (n := n) (by simp [hq])
  rw [hq] at hpushed
  exact ⟨m, pushed, hm, h.publishes_head hpop hpushed.symm⟩

theorem DeliveringRun.exists_publishes (h : DeliveringRun sched σ) {f : FrameRec} {before after : List FrameRec}
    (hq : (σ n).frame.q = before ++ f :: after) : ∃ m, n ≤ m ∧ Publishes sched σ f m := by
  induction before generalizing n after with
  | nil =>
    obtain ⟨m, -, hm, hpublish, -⟩ := h.exists_publishes_head hq
    exact ⟨m, hm, hpublish⟩
  | cons e before ih =>
    obtain ⟨m, pushed, hm, -, hrest⟩ := h.exists_publishes_head hq
    obtain ⟨i, hi, hpublish⟩ := ih (after := after ++ pushed) (by simpa using hrest)
    exact ⟨i, by omega, hpublish⟩

end Delivery

/-- Settles O38, by induction on the frames before `f`: each is published, so taken off FQ, before it. -/
theorem everyQueuedFrameIsPublished : Obligations.EveryQueuedFrameIsPublished := by
  intro sched σ hfair hinv hrunning hreset n f hf
  obtain ⟨before, after, hq⟩ := List.append_of_mem hf
  exact DeliveringRun.exists_publishes ⟨hfair, hinv, hrunning, hreset⟩ hq

end Sys2Proof.Machine

/-! Proofs of the statements of 44_codec.md: the six codec commands (R236 to R246), the round trip of widths (R239), how the
frequency falls with the prescale (R245, R248) and that no codec command writes state (R232). -/

namespace Sys2Proof.Machine

/-! ### The answers of the codec commands (R232, R104) -/

section Answer

variable (s : State) (a b c : U64)

theorem answer_ok (m n : Nat) : answer (.ok m n) s = .next (s.answered .ok (BitVec.ofNat 64 m) (BitVec.ofNat 64 n)) := rfl

theorem answer_err (st : Status) : answer (.err st) s = .next (s.answered st 0 0) := rfl

theorem exec_width : exec (.width a b) s = answer (widthAnswer a b) s := rfl

theorem exec_fromWidth : exec (.fromWidth a b) s = answer (fromWidthAnswer a b) s := rfl

theorem exec_widthToMs : exec (.widthToMs a b) s = answer (widthToMsAnswer s.cfg a b) s := rfl

theorem exec_fromWidthMs : exec (.fromWidthMs a b c) s = answer (fromWidthMsAnswer s.cfg a b c) s := rfl

theorem exec_freqFromPrescale : exec (.freqFromPrescale a b) s = answer (freqFromPrescaleAnswer s.cfg a b) s := rfl

theorem exec_prescaleFromFreq : exec (.prescaleFromFreq a b) s = answer (prescaleFromFreqAnswer s.cfg a b) s := rfl

end Answer

/-- Settles O23: a codec command is `answer` of a function of its operands and the parameters. -/
theorem codecIsPure : Obligations.CodecIsPure := by
  intro a b c cfg i hi
  obtain ⟨ans, hexec⟩ : ∃ ans, ∀ s : State, s.cfg = cfg → exec i s = answer ans s := by
    simp only [List.mem_cons, List.not_mem_nil, or_false] at hi
    rcases hi with rfl | rfl | rfl | rfl | rfl | rfl
    · exact ⟨_, fun s _ => exec_width s a b⟩
    · exact ⟨_, fun s _ => exec_fromWidth s a b⟩
    · exact ⟨_, fun s hs => hs ▸ exec_widthToMs s a b⟩
    · exact ⟨_, fun s hs => hs ▸ exec_fromWidthMs s a b c⟩
    · exact ⟨_, fun s hs => hs ▸ exec_freqFromPrescale s a b⟩
    · exact ⟨_, fun s hs => hs ▸ exec_prescaleFromFreq s a b⟩
  refine ⟨⟨ans.status, ans.r0, ans.r1, List.replicate cfg.channelCount 0⟩, fun s hs => ?_⟩
  obtain rfl := hs
  rw [hexec s rfl, answer_eq]
  rfl

/-! ### Range checks (R106, R234) -/

@[simp] theorem tickOutOfRange_iff {v : U64} : tickOutOfRange v = true ↔ 4096 < v.toNat := decide_eq_true_iff

@[simp] theorem delayOutOfRange_iff {v : U64} : delayOutOfRange v = true ↔ 4095 < v.toNat := decide_eq_true_iff

@[simp] theorem prescaleOutOfRange_iff {cfg : Config} {p : Int} :
    prescaleOutOfRange cfg p = true ↔ p < cfg.prescaleMin ∨ (cfg.prescaleMax : Int) < p := by
  simp [prescaleOutOfRange]

/-! ### WIDTH and FROM_WIDTH (R236, R238, R239) -/

/-- The width of a pair of ticks: always-off, then always-on, then the distance modulo 4096 (R236, R237). -/
theorem widthTicks_eq {on off : Nat} (hon : on ≤ 4096) (hoff : off ≤ 4096) :
    widthTicks on off = if off = 4096 then 0 else if on = 4096 then 4095 else (off + 4096 - on) % 4096 := by
  simp only [widthTicks, Config.ticks]
  split_ifs <;> omega

theorem widthAnswer_eq (on off : U64) :
    widthAnswer on off =
      if 4096 < on.toNat ∨ 4096 < off.toNat then .err .errArgRange else .ok (widthTicks on.toNat off.toNat) 0 := by
  simp only [widthAnswer, tickOutOfRange_iff, ite_or]

/-- Settles O14. -/
theorem widthResult : Obligations.WidthResult := by
  intro s on off c
  obtain ⟨hdecode, -⟩ := commandWordsDecode on off c
  refine ⟨hdecode, ?_⟩
  rw [exec_width, widthAnswer_eq]
  by_cases hout : 4096 < on.toNat ∨ 4096 < off.toNat
  · rw [if_pos hout, if_pos hout, answer_err]
  · rw [if_neg hout, if_neg hout, widthTicks_eq (by omega) (by omega), answer_ok]
    rfl

/-- FROM_WIDTH's answer to a width and a delay in ticks, which FROM_WIDTH_MS gives to its converted times too (R238, R242). -/
def onOffAnswer (w d : Nat) : Answer :=
  if 4096 < w ∨ 4095 < d then .err .errArgRange else .ok (onOffTicks w d).1 (onOffTicks w d).2

theorem fromWidthAnswer_eq (width delay : U64) : fromWidthAnswer width delay = onOffAnswer width.toNat delay.toNat := by
  simp only [fromWidthAnswer, onOffAnswer, tickOutOfRange_iff, delayOutOfRange_iff, ite_or]

section OnOff

variable {w d : Nat}

theorem onOffTicks_of_full (h : 4095 ≤ w) : onOffTicks w d = (4096, 0) := if_pos h

@[simp] theorem onOffTicks_zero : onOffTicks 0 d = (0, 4096) := rfl

theorem onOffTicks_of_lt (hpos : w ≠ 0) (hlt : w < 4095) (hd : d ≤ 4095) : onOffTicks w d = (d, (d + w) % 4096) := by
  have hoff : (if 4095 < d + w then d + w - 4096 else d + w) = (d + w) % 4096 := by split_ifs <;> omega
  rw [← hoff]
  exact (if_neg hlt.not_ge).trans (if_neg hpos)

/-- `answer` of `onOffAnswer`, case by case: the range error, the two sentinel pairs and every other pair (R238). -/
theorem answer_onOffAnswer (w d : Nat) (s : State) :
    answer (onOffAnswer w d) s = .next (
      if 4096 < w ∨ 4095 < d then s.answered .errArgRange 0 0
      else if 4095 ≤ w then s.answered .ok 4096 0
      else if w = 0 then s.answered .ok 0 4096
      else s.answered .ok (BitVec.ofNat 64 d) (BitVec.ofNat 64 ((d + w) % 4096))) := by
  unfold onOffAnswer
  split_ifs with hout hfull hzero
  · rw [answer_err]
  · rw [onOffTicks_of_full hfull, answer_ok]
    rfl
  · rw [hzero, onOffTicks_zero, answer_ok]
    rfl
  · rw [onOffTicks_of_lt hzero (by omega) (by omega), answer_ok]

/-- FROM_WIDTH's ticks are operands that WIDTH accepts. -/
theorem onOffTicks_le (hd : d ≤ 4095) : (onOffTicks w d).1 ≤ 4096 ∧ (onOffTicks w d).2 ≤ 4096 := by
  by_cases hfull : 4095 ≤ w
  · simp [onOffTicks_of_full hfull]
  · by_cases hzero : w = 0
    · simp [hzero]
    · rw [onOffTicks_of_lt hzero (by omega) hd]
      exact ⟨by omega, by omega⟩

/-- The round trip of rule R239 in ticks: 4096 and 4095 are both "always on", and the delay cancels. -/
theorem widthTicks_onOffTicks (hd : d ≤ 4095) : widthTicks (onOffTicks w d).1 (onOffTicks w d).2 = min w 4095 := by
  obtain ⟨hon, hoff⟩ := onOffTicks_le (w := w) hd
  rw [widthTicks_eq hon hoff]
  by_cases hfull : 4095 ≤ w
  · simp [onOffTicks_of_full hfull, hfull]
  · by_cases hzero : w = 0
    · simp [hzero]
    · rw [onOffTicks_of_lt hzero (by omega) hd]
      dsimp only
      split_ifs <;> omega

end OnOff

/-- Settles O15. -/
theorem fromWidthResult : Obligations.FromWidthResult := by
  intro s width delay c
  obtain ⟨-, hdecode, -⟩ := commandWordsDecode width delay c
  refine ⟨hdecode, ?_⟩
  rw [exec_fromWidth, fromWidthAnswer_eq, answer_onOffAnswer, BitVec.ofNat_toNat, BitVec.setWidth_eq]

/-- Settles O16: the two operand checks pass, and the ticks are those of `widthTicks_onOffTicks`. -/
theorem widthInvertsFromWidth : Obligations.WidthInvertsFromWidth := by
  intro s w d hw hd
  obtain ⟨hon, hoff⟩ := onOffTicks_le (w := w.toNat) hd
  have hfits {n : Nat} (hn : n ≤ 4096) : (BitVec.ofNat 64 n).toNat = n := by
    rw [BitVec.toNat_ofNat, Nat.mod_eq_of_lt (by omega)]
  refine ⟨BitVec.ofNat 64 (onOffTicks w.toNat d.toNat).1, BitVec.ofNat 64 (onOffTicks w.toNat d.toNat).2, ?_, ?_⟩
  · rw [exec_fromWidth, fromWidthAnswer_eq, onOffAnswer, if_neg (by omega), answer_ok]
  · rw [exec_width, widthAnswer_eq, hfits hon, hfits hoff, if_neg (by omega), widthTicks_onOffTicks hd, answer_ok]
    rfl

/-! ### FROM_WIDTH_MS (R241, R242) -/

theorem fromWidthMsAnswer_zero (cfg : Config) (w d : U64) : fromWidthMsAnswer cfg w 0 d = .err .errFreqNonpos := by
  rw [fromWidthMsAnswer, if_pos rfl]

/-- Past the frequency's check, the converted times are answered as FROM_WIDTH answers ticks. -/
theorem fromWidthMsAnswer_of_ne {cfg : Config} {w f d : U64} (hf : f ≠ 0) :
    fromWidthMsAnswer cfg w f d = onOffAnswer (msToTicks cfg w.toNat f.toNat) (msToTicks cfg d.toNat f.toNat) := by
  simp only [fromWidthMsAnswer, onOffAnswer, if_neg hf, ite_or, Config.ticks]

theorem msToTicks_isNearest (cfg : Config) (mq fq : Nat) :
    IsNearest cfg.roundTies (mq * 4096 * fq) (1000 * 10 ^ (2 * cfg.decScale)) (msToTicks cfg mq fq) :=
  roundNearest_isNearest (by positivity)

/-- Settles O18. -/
theorem fromWidthMsResult : Obligations.FromWidthMsResult := by
  intro s w f d
  obtain ⟨-, -, -, hdecode, -⟩ := commandWordsDecode w f d
  refine ⟨hdecode, ?_, fun hf => ⟨_, _, msToTicks_isNearest s.cfg w.toNat f.toNat,
    msToTicks_isNearest s.cfg d.toNat f.toNat, ?_⟩⟩
  · rintro rfl
    rw [exec_fromWidthMs, fromWidthMsAnswer_zero, answer_err]
  · rw [exec_fromWidthMs, fromWidthMsAnswer_of_ne hf, answer_onOffAnswer]

/-! ### Results that may not fit (R231, R301) -/

/-- The answer with the result `q`, or ERR_OVERFLOW where `q` does not fit 64 bits. -/
def fitAnswer (q : Nat) : Answer := if max64 < q then .err .errOverflow else .ok q 0

theorem answer_fitAnswer (q : Nat) (s : State) :
    answer (fitAnswer q) s = .next (
      if 2 ^ 64 - 1 < q then s.answered .errOverflow 0 0 else s.answered .ok (BitVec.ofNat 64 q) 0) := by
  unfold fitAnswer
  split_ifs
  · rw [answer_err]
  · rw [answer_ok]
    rfl

theorem fitAnswer_of_le {q : Nat} (h : q ≤ max64) : fitAnswer q = .ok q 0 := if_neg h.not_gt

theorem fitAnswer_status_eq_ok {q : Nat} : (fitAnswer q).status = .ok ↔ q ≤ max64 := by
  refine ⟨fun hok => ?_, fun hfits => by rw [fitAnswer_of_le hfits]; rfl⟩
  by_contra hbig
  rw [fitAnswer, if_pos (Nat.lt_of_not_le hbig)] at hok
  cases hok

theorem fitAnswer_r0_toNat {q : Nat} (h : q ≤ max64) : (fitAnswer q).r0.toNat = q := by
  rw [fitAnswer_of_le h]
  exact (BitVec.toNat_ofNat q 64).trans (Nat.mod_eq_of_lt (Nat.lt_succ_of_le h))

/-- Every 64-bit value fits. -/
theorem fitAnswer_toNat (v : U64) : fitAnswer v.toNat = ⟨.ok, v, 0⟩ := by
  rw [fitAnswer_of_le (Nat.le_pred_of_lt v.isLt), Answer.ok, BitVec.ofNat_toNat, BitVec.setWidth_eq]
  rfl

/-! ### WIDTH_TO_MS (R240) -/

section WidthToMs

variable {cfg : Config} {f t : U64}

theorem widthToMsAnswer_zero (cfg : Config) (t : U64) : widthToMsAnswer cfg 0 t = .err .errFreqNonpos := if_pos rfl

theorem widthToMsAnswer_of_out (hf : f ≠ 0) (ht : 4096 < t.toNat) : widthToMsAnswer cfg f t = .err .errArgRange :=
  (if_neg hf).trans (if_pos (tickOutOfRange_iff.mpr ht))

theorem widthToMsAnswer_of_le (hf : f ≠ 0) (ht : t.toNat ≤ 4096) :
    widthToMsAnswer cfg f t = fitAnswer (widthMsQ cfg f.toNat t.toNat) :=
  (if_neg hf).trans (if_neg (by simpa using ht))

end WidthToMs

/-- Settles O17. -/
theorem widthToMsResult : Obligations.WidthToMsResult := by
  intro s f t c
  obtain ⟨-, -, hdecode, -⟩ := commandWordsDecode f t c
  refine ⟨hdecode, ?_, fun hf ht => ?_, fun hf ht => ⟨widthMsQ s.cfg f.toNat t.toNat, ?_, ?_⟩⟩
  · rintro rfl
    rw [exec_widthToMs, widthToMsAnswer_zero, answer_err]
  · rw [exec_widthToMs, widthToMsAnswer_of_out hf ht, answer_err]
  · exact roundNearest_isNearest (Nat.mul_pos (by decide) (BitVec.toNat_pos_of_ne_zero hf))
  · rw [exec_widthToMs, widthToMsAnswer_of_le hf ht, answer_fitAnswer]

/-! ### FREQ_FROM_PRESCALE (R244, R245) -/

section FreqFromPrescale

variable {cfg : Config} {p k : U64}

theorem freqFromPrescaleAnswer_of_out (hp : p.toNat < cfg.prescaleMin ∨ cfg.prescaleMax < p.toNat) :
    freqFromPrescaleAnswer cfg p k = .err .errPrescaleRange :=
  if_pos (prescaleOutOfRange_iff.mpr (by omega))

theorem not_prescaleOutOfRange (hmin : cfg.prescaleMin ≤ p.toNat) (hmax : p.toNat ≤ cfg.prescaleMax) :
    ¬ prescaleOutOfRange cfg p.toNat = true := by
  rw [prescaleOutOfRange_iff]
  omega

theorem freqFromPrescaleAnswer_zero (hmin : cfg.prescaleMin ≤ p.toNat) (hmax : p.toNat ≤ cfg.prescaleMax) :
    freqFromPrescaleAnswer cfg p 0 = .err .errClockNonpos :=
  (if_neg (not_prescaleOutOfRange hmin hmax)).trans (if_pos rfl)

theorem freqFromPrescaleAnswer_of_ne (hmin : cfg.prescaleMin ≤ p.toNat) (hmax : p.toNat ≤ cfg.prescaleMax) (hk : k ≠ 0) :
    freqFromPrescaleAnswer cfg p k = fitAnswer (freqQ cfg p.toNat k.toNat) :=
  (if_neg (not_prescaleOutOfRange hmin hmax)).trans (if_neg hk)

end FreqFromPrescale

/-- Settles O19. -/
theorem freqFromPrescaleResult : Obligations.FreqFromPrescaleResult := by
  intro s p k c
  obtain ⟨-, -, -, -, hdecode, -⟩ := commandWordsDecode p k c
  refine ⟨hdecode, fun hp => ?_, fun hmin hmax => ?_, fun hmin hmax hk => ⟨freqQ s.cfg p.toNat k.toNat, ?_, ?_⟩⟩
  · rw [exec_freqFromPrescale, freqFromPrescaleAnswer_of_out hp, answer_err]
  · rintro rfl
    rw [exec_freqFromPrescale, freqFromPrescaleAnswer_zero hmin hmax, answer_err]
  · exact roundNearest_isNearest (by positivity)
  · rw [exec_freqFromPrescale, freqFromPrescaleAnswer_of_ne hmin hmax hk, answer_fitAnswer]

/-- A larger divisor has no larger nearest integer: `p > q` would put `num` at or above `(q + 1/2) * den'`, and `num` is at most
`(q + 1/2) * den`. -/
theorem IsNearest.le_of_den_le {ties : RoundTies} {num den den' p q : Nat} (hden : 0 < den) (hle : den ≤ den')
    (hq : IsNearest ties num den q) (hp : IsNearest ties num den' p) : p ≤ q := by
  rcases hle.eq_or_lt with rfl | hlt
  · exact hp.le hden hq
  obtain ⟨hp_upper, -⟩ := hp
  obtain ⟨-, hq_lower, -⟩ := hq
  by_contra hgt
  have hstep : (q + 1) * den' ≤ p * den' := Nat.mul_le_mul_right den' (by omega)
  have hmul : q * den ≤ q * den' := Nat.mul_le_mul_left q hle
  rw [Nat.add_one_mul] at hstep
  omega

/-- Rule R245 for the exact quotients of R244, rounded. -/
theorem freqQ_le_of_le (cfg : Config) (clock : Nat) {p p' : Nat} (h : p ≤ p') : freqQ cfg p' clock ≤ freqQ cfg p clock :=
  have hden (n : Nat) : 0 < Config.ticks * (n + 1) := by positivity
  IsNearest.le_of_den_le (hden p) (Nat.mul_le_mul_left _ (by omega)) (roundNearest_isNearest (hden p))
    (roundNearest_isNearest (hden p'))

/-- Settles O21: where the smaller prescale's quotient fits 64 bits, so does the larger one's. -/
theorem frequencyFallsAsPrescaleRises : Obligations.FrequencyFallsAsPrescaleRises := by
  intro s p p' k hmin hlt hmax hk
  have hle : freqQ s.cfg p'.toNat k.toNat ≤ freqQ s.cfg p.toNat k.toNat := freqQ_le_of_le s.cfg k.toNat hlt.le
  rw [exec_freqFromPrescale, exec_freqFromPrescale, freqFromPrescaleAnswer_of_ne hmin (by omega) hk,
    freqFromPrescaleAnswer_of_ne (by omega) hmax hk]
  refine ⟨_, _, answer_eq _ s, answer_eq _ s, fun hok => ?_⟩
  have hfits : freqQ s.cfg p.toNat k.toNat ≤ max64 := fitAnswer_status_eq_ok.mp hok
  have hfits' : freqQ s.cfg p'.toNat k.toNat ≤ max64 := hle.trans hfits
  refine ⟨fitAnswer_status_eq_ok.mpr hfits', ?_⟩
  rwa [fitAnswer_r0_toNat hfits, fitAnswer_r0_toNat hfits']

/-! ### PRESCALE_FROM_FREQ (R246, R248) -/

section PrescaleFromFreq

variable {cfg : Config} {f k : U64}

theorem prescaleFromFreqAnswer_zero_freq (cfg : Config) (k : U64) : prescaleFromFreqAnswer cfg 0 k = .err .errFreqNonpos :=
  if_pos rfl

theorem prescaleFromFreqAnswer_zero_clock (hf : f ≠ 0) : prescaleFromFreqAnswer cfg f 0 = .err .errClockNonpos :=
  (if_neg hf).trans (if_pos rfl)

/-- Past the checks of its operands the prescale is checked as an integer, and only a prescale in range is a result. -/
theorem prescaleFromFreqAnswer_of_ne (hf : f ≠ 0) (hk : k ≠ 0) :
    prescaleFromFreqAnswer cfg f k =
      if prescaleOf cfg f.toNat k.toNat < cfg.prescaleMin ∨ (cfg.prescaleMax : Int) < prescaleOf cfg f.toNat k.toNat then
        .err .errPrescaleRange
      else .ok (prescaleOf cfg f.toNat k.toNat).toNat 0 := by
  simp only [prescaleFromFreqAnswer, if_neg hf, if_neg hk, prescaleOutOfRange_iff]

end PrescaleFromFreq

/-- Settles O20: `n` is the rounded quotient, of which `prescaleOf` is the predecessor in the integers. -/
theorem prescaleFromFreqResult : Obligations.PrescaleFromFreqResult := by
  intro s f k c
  obtain ⟨-, -, -, -, -, hdecode, -⟩ := commandWordsDecode f k c
  refine ⟨hdecode, ?_, fun hf => ?_, fun hf hk => ⟨_, roundNearest_isNearest ?_, ?_⟩⟩
  · rintro rfl
    rw [exec_prescaleFromFreq, prescaleFromFreqAnswer_zero_freq, answer_err]
  · rintro rfl
    rw [exec_prescaleFromFreq, prescaleFromFreqAnswer_zero_clock hf, answer_err]
  · exact Nat.mul_pos (by decide) (BitVec.toNat_pos_of_ne_zero hf)
  · rw [exec_prescaleFromFreq, prescaleFromFreqAnswer_of_ne hf hk]
    unfold prescaleOf dec64Scale
    split_ifs
    · rw [answer_err]
    · rw [answer_ok, Int.pred_toNat]
      rfl

/-- Settles O22: the five answers are closed values once the parameters are the block's. -/
theorem frequencyRoundTripSettles : Obligations.FrequencyRoundTripSettles := by
  intro s hs
  have hprescale {f n : U64} (h : prescaleFromFreqAnswer Config.block f 25000000 = ⟨.ok, n, 0⟩) :
      exec (.prescaleFromFreq f 25000000) s = .next (s.answered .ok n 0) := by
    rw [exec_prescaleFromFreq, hs, h]
    rfl
  have hfreq {p q : U64} (hp : p.toNat ≤ 255) (h : freqQ Config.block p.toNat 25000000 = q.toNat) :
      exec (.freqFromPrescale p 25000000) s = .next (s.answered .ok q 0) := by
    have hanswer : freqFromPrescaleAnswer Config.block p 25000000 = fitAnswer q.toNat :=
      h ▸ freqFromPrescaleAnswer_of_ne (Nat.zero_le _) hp (by decide)
    rw [exec_freqFromPrescale, hs, hanswer, fitAnswer_toNat]
    rfl
  exact ⟨hprescale (by decide), hfreq (by decide) (by decide), hfreq (by decide) (by decide), hfreq (by decide) (by decide),
    hprescale (by decide)⟩

end Sys2Proof.Machine

/-! Proofs of the statements of 45_control.md: STOP (R270), READ_STATUS and the STATE word (R271 to R273) and the illegal command
words (R275). -/

namespace Sys2Proof.Machine

/-! ### Illegal command words (R275, R109, R115) -/

section Illegal

variable {op : BitVec 4} {rsvd : BitVec 28} {i : Instr}

/-- The eight illegal rows of the opcode table, with the fields `op` and `rsvd` of a command word. -/
def illegalRows (op : BitVec 4) (rsvd : BitVec 28) : List Instr :=
  [.illegalOp0 rsvd, .illegalOp7 rsvd, .illegalOpB rsvd, .illegalOpC rsvd, .illegalOpD rsvd, .illegalOpE rsvd, .illegalOpF rsvd,
    .illegalRsvd op rsvd]

theorem exec_of_mem_illegalRows (h : i ∈ illegalRows op rsvd) (s : State) : exec i s = illegal s := by
  simp only [illegalRows, List.mem_cons, List.not_mem_nil, or_false] at h
  rcases h with rfl | rfl | rfl | rfl | rfl | rfl | rfl | rfl <;> rfl

/-- An unassigned OP is its own ILLEGAL_OP row whatever RSVD is (log 8); an assigned one with RSVD not 0 is ILLEGAL_RSVD. -/
theorem decodeCmd_mem_illegalRows (h : opAssigned op = false ∨ rsvd ≠ 0) (a b c : U64) :
    decodeCmd (cmdWord rsvd op) a b c ∈ illegalRows op rsvd := by
  cases hop : opAssigned op with
  | true =>
    have hrsvd : rsvd ≠ 0 := h.resolve_left (by simp [hop])
    rw [decodeCmd_illegalRsvd hop hrsvd]
    simp [illegalRows]
  | false =>
    rcases opAssigned_eq_false hop with rfl | rfl | rfl | rfl | rfl | rfl | rfl <;> simp [decodeCmd, illegalRows]

theorem opAssigned_eq_false_of_mem (h : op.toNat ∈ [0x0, 0x7, 0xB, 0xC, 0xD, 0xE, 0xF]) : opAssigned op = false := by
  revert op
  decide

/-- The illegal words of rule R275, by their two fields. -/
theorem illegal_fields_of_word {w : BitVec 32} (h : w.toNat % 16 ∈ [0x0, 0x7, 0xB, 0xC, 0xD, 0xE, 0xF] ∨ w.toNat / 16 ≠ 0) :
    opAssigned (cmdOp w) = false ∨ cmdRsvd w ≠ 0 := by
  rw [← cmdOp_toNat, ← cmdRsvd_toNat] at h
  exact h.imp opAssigned_eq_false_of_mem fun hne hzero => hne (congrArg BitVec.toNat hzero)

end Illegal

/-- Settles O6. -/
theorem illegalRowsComplete : Obligations.IllegalRowsComplete := fun s _ _ _ hrow =>
  (exec_of_mem_illegalRows hrow s).trans (illegal_eq s)

/-- Settles O5: an illegal word decodes to one of O6's rows. -/
theorem illegalWordsAnswerIllegalOp : Obligations.IllegalWordsAnswerIllegalOp := by
  intro s w a b c hillegal
  have hrow := decodeCmd_mem_illegalRows (illegal_fields_of_word hillegal) a b c
  rw [cmdWord_fields] at hrow
  exact ⟨decodeCmd w a b c, rfl, illegalRowsComplete s _ _ _ hrow⟩

/-! ### STOP (R270) -/

theorem exec_stop (s : State) : exec .stop s = answer (.ok 0 0) s.setStopped := rfl

/-- Settles O24: STOP answers in the state that `setStopped` leaves. -/
theorem stopSetsStopped : Obligations.StopSetsStopped := by
  intro s a b c
  obtain ⟨-, -, -, -, -, -, -, -, hdecode⟩ := commandWordsDecode a b c
  refine ⟨hdecode, ?_⟩
  rw [exec_stop, answer_ok]
  rfl

/-! ### READ_STATUS (R271, R272) -/

@[simp] theorem indexOutOfRange_iff {v : U64} : indexOutOfRange v = true ↔ 18 < v.toNat := decide_eq_true_iff

theorem valueSelCode_eq (v : ValueSel) : BitVec.ofNat 64 (valueSelCode v) = if v = .high then 0 else 1 := by
  cases v <;> rfl

theorem roundTiesCode_eq (t : RoundTies) : BitVec.ofNat 64 (roundTiesCode t) = if t = .even then 0 else 1 := by
  cases t <;> rfl

/-- The table of rule R272, index 0 first. -/
def statusTable (s : State) : List U64 :=
  [s.cnt.noise.setWidth 64, s.cnt.ovf.setWidth 64, s.cnt.edgeDrop.setWidth 64, s.cnt.frameDrop.setWidth 64,
    s.cnt.asmErr.setWidth 64, s.cnt.frame.setWidth 64, stateWord s, s.store.seq,
    BitVec.ofNat 64 s.cfg.channelCount, BitVec.ofNat 64 s.cfg.maxChannels, BitVec.ofNat 64 s.cfg.lowLimit,
    BitVec.ofNat 64 s.cfg.syncMin, if s.cfg.valueSel = .high then 0 else 1, BitVec.ofNat 64 s.cfg.edgeDepth,
    BitVec.ofNat 64 s.cfg.frameDepth, BitVec.ofNat 64 s.cfg.decScale, if s.cfg.roundTies = .even then 0 else 1,
    BitVec.ofNat 64 s.cfg.prescaleMin, BitVec.ofNat 64 s.cfg.prescaleMax]

theorem statusValue_eq (s : State) (n : Nat) : statusValue s n = (statusTable s).getD n 0 := by
  match n with
  | 12 => exact valueSelCode_eq s.cfg.valueSel
  | 16 => exact roundTiesCode_eq s.cfg.roundTies
  | 0 | 1 | 2 | 3 | 4 | 5 | 6 | 7 | 8 | 9 | 10 | 11 | 13 | 14 | 15 | 17 | 18 | _ + 19 => rfl

theorem exec_readStatus (i : U64) (s : State) :
    exec (.readStatus i) s =
      .next (if 18 < i.toNat then s.answered .errArgRange 0 0 else s.answered .ok ((statusTable s).getD i.toNat 0) 0) := by
  change execReadStatus i s = _
  rw [← statusValue_eq]
  by_cases hout : 18 < i.toNat
  · rw [if_pos hout, execReadStatus, if_pos (indexOutOfRange_iff.mpr hout), answer_err]
  · rw [if_neg hout, execReadStatus, if_neg (mt indexOutOfRange_iff.mp hout), answer_eq]
    rfl

/-- Settles O25. -/
theorem readStatusValues : Obligations.ReadStatusValues := by
  intro s i b c
  obtain ⟨-, -, -, -, -, -, -, hdecode, -⟩ := commandWordsDecode i b c
  exact ⟨hdecode, exec_readStatus i s⟩

/-! ### The STATE word (R273) -/

theorem toNat_append_eq_add {m n : Nat} (x : BitVec m) (y : BitVec n) : (x ++ y).toNat = x.toNat * 2 ^ n + y.toNat := by
  rw [BitVec.toNat_append, ← Nat.shiftLeft_add_eq_or_of_lt y.isLt, Nat.shiftLeft_eq]

/-- The STATE word as the sum of its fields, each at its own weight, while CH_IDX fits its nine bits (R41, log 14). -/
theorem stateWord_toNat {s : State} (hidx : s.dec.chIdx < 2 ^ 9) :
    (stateWord s).toNat =
      s.stopped.toNat + 2 * s.dec.state.code.toNat + 4 * s.asm.phase.code.toNat + 256 * s.dec.chIdx := by
  have hnine : (BitVec.ofNat 9 s.dec.chIdx).toNat = s.dec.chIdx := by
    rw [BitVec.toNat_ofNat, Nat.mod_eq_of_lt hidx]
  simp only [stateWord, toNat_append_eq_add, hnine, BitVec.toNat_ofBool, BitVec.ofNat_eq_ofNat, BitVec.toNat_zero]
  omega

/-- Settles O26: the codes of the four fields at their weights. -/
theorem stateWordFields : Obligations.StateWordFields := by
  refine ⟨rfl, fun s hidx => ?_⟩
  rw [stateWord_toNat hidx]
  congr 3
  · cases s.stopped <;> rfl
  · cases s.dec.state <;> rfl
  · cases s.asm.phase <;> rfl

end Sys2Proof.Machine

/-! Proofs of the statements of 60_exceptions.md: nothing traps (R300), a command's error records nothing (R304), the events of a
step (R311) and the turn of an agent whose step is not enabled (R319). -/

namespace Sys2Proof.Machine

/-! ### Nothing traps (R300) -/

/-- Settles O10: a legal block's step is a turn, and every turn answers a next state. -/
theorem legalBlockAlwaysSteps : Obligations.LegalBlockAlwaysSteps := by
  intro s hlegal
  obtain ⟨t, hturn, -⟩ := turn_total s.nextAction s.taken
  exact ⟨t, (step_of_legal hlegal).trans hturn⟩

/-! ### What an error records (R304) -/

/-- R0 and R1 of an answer with a non-zero status are 0 (R104). -/
def Answer.ZeroOnError (x : Answer) : Prop := x.status ≠ .ok → x.r0 = 0 ∧ x.r1 = 0

section ZeroOnError

variable {x : Answer} {cfg : Config} (a b c : U64)

theorem Answer.ZeroOnError.ok (m n : Nat) : (Answer.ok m n).ZeroOnError := absurd rfl

theorem Answer.ZeroOnError.err (st : Status) : (Answer.err st).ZeroOnError := fun _ => ⟨rfl, rfl⟩

/-- A check that answers an error before the answer `x`. -/
theorem Answer.ZeroOnError.check {p : Prop} [Decidable p] {st : Status} (hx : x.ZeroOnError) :
    (if p then .err st else x).ZeroOnError := by
  split
  · exact .err st
  · exact hx

/-! Each codec command is a chain of checks before one success. -/

theorem widthAnswer_zeroOnError : (widthAnswer a b).ZeroOnError := .check (.check (.ok _ _))

theorem fromWidthAnswer_zeroOnError : (fromWidthAnswer a b).ZeroOnError := .check (.check (.ok _ _))

theorem widthToMsAnswer_zeroOnError : (widthToMsAnswer cfg a b).ZeroOnError := .check (.check (.check (.ok _ _)))

theorem fromWidthMsAnswer_zeroOnError : (fromWidthMsAnswer cfg a b c).ZeroOnError := .check (.check (.check (.ok _ _)))

theorem freqFromPrescaleAnswer_zeroOnError : (freqFromPrescaleAnswer cfg a b).ZeroOnError := .check (.check (.check (.ok _ _)))

theorem prescaleFromFreqAnswer_zeroOnError : (prescaleFromFreqAnswer cfg a b).ZeroOnError := .check (.check (.check (.ok _ _)))

end ZeroOnError

/-- A command's step from `s` answers, and with a non-zero status it writes nothing but a response of zeros (R304). -/
def WritesNothingOnError (s : State) (res : Result) : Prop :=
  ∃ t r, res = .next t ∧ t.rsp = some r ∧
    (r.status ≠ .ok → t = { s with rsp := some r } ∧ r.r0 = 0 ∧ r.r1 = 0 ∧ r.ch = List.replicate s.cfg.channelCount 0)

theorem answer_writesNothingOnError {x : Answer} (hx : x.ZeroOnError) (s : State) : WritesNothingOnError s (answer x s) := by
  refine ⟨_, _, answer_eq x s, rfl, fun herr => ?_⟩
  obtain ⟨hr0, hr1⟩ := hx herr
  exact ⟨rfl, hr0, hr1, rfl⟩

/-- A command that succeeds may write. -/
theorem WritesNothingOnError.of_ok (s : State) {t : State} {r : Response} (hrsp : t.rsp = some r) (hok : r.status = .ok) :
    WritesNothingOnError s (.next t) := ⟨t, r, rfl, hrsp, absurd hok⟩

theorem exec_readStatus_writesNothingOnError (i : U64) (s : State) : WritesNothingOnError s (exec (.readStatus i) s) := by
  rw [exec_readStatus]
  split
  · exact answer_writesNothingOnError (.err .errArgRange) s
  · exact .of_ok s rfl rfl

theorem illegal_writesNothingOnError (s : State) : WritesNothingOnError s (illegal s) :=
  answer_writesNothingOnError (.err .errIllegalOp) s

/-- Settles O28, row by row: a command is one `answer`, or it always succeeds (READ_CHANNELS, STOP), or it is READ_STATUS
with its one check. -/
theorem errorsWriteNothing : Obligations.ErrorsWriteNothing := by
  intro i s hformat
  change WritesNothingOnError s (exec i s)
  cases i with
  | width on off => exact answer_writesNothingOnError (widthAnswer_zeroOnError on off) s
  | fromWidth width delay => exact answer_writesNothingOnError (fromWidthAnswer_zeroOnError width delay) s
  | widthToMs freq ticks => exact answer_writesNothingOnError (widthToMsAnswer_zeroOnError freq ticks) s
  | fromWidthMs width freq delay => exact answer_writesNothingOnError (fromWidthMsAnswer_zeroOnError width freq delay) s
  | freqFromPrescale prescale clock =>
    exact answer_writesNothingOnError (freqFromPrescaleAnswer_zeroOnError prescale clock) s
  | prescaleFromFreq freq clock => exact answer_writesNothingOnError (prescaleFromFreqAnswer_zeroOnError freq clock) s
  | readChannels => exact .of_ok s rfl rfl
  | readStatus index => exact exec_readStatus_writesNothingOnError index s
  | stop => exact .of_ok s rfl rfl
  | illegalOp0 | illegalOp7 | illegalOpB | illegalOpC | illegalOpD | illegalOpE | illegalOpF | illegalRsvd =>
    exact illegal_writesNothingOnError s
  | edge | reset => cases hformat

/-! ### The events of a step (R311) -/

/-- A step in which the reset pin is asserted is RESET, and RESET alone (R330). -/
theorem step_of_reset {s : State} (hlegal : s.cfg.legal) (hact : s.nextAction = .rst 1) :
    step s = .next (s.taken.clear.emit .resetEvt) := by
  rw [step_eq_exec hlegal (by rw [hact, turn_rst]) (i := .reset) rfl]
  rfl

/-- Settles O53, by what a turn can add to HIST; that RESET always adds its event is `step_of_reset`. -/
theorem atMostOneEventPerStep : Obligations.AtMostOneEventPerStep := by
  intro s t hstep
  have hcases := (step_cases hstep).hist_cases
  simp only [State.taken_hist, State.taken_store, State.taken_dec] at hcases
  refine ⟨?oneEvent, fun hreset => ?reset, fun hdispatch hstore => ?dispatch⟩
  case oneEvent =>
    rcases hcases with ⟨hkept, -⟩ | ⟨hact, hhist⟩ | ⟨hact, hhist, -⟩ | ⟨hact, hhist, -⟩
    · exact .inl hkept
    · exact .inr ⟨_, hhist, hact⟩
    · exact .inr ⟨_, hhist, hact, rfl⟩
    · exact .inr ⟨_, hhist, hact, rfl, rfl⟩
  case reset =>
    obtain ⟨hlegal, -⟩ := step_eq_next hstep
    cases (step_of_reset hlegal hreset).symm.trans hstep
    exact congrArg (· ++ [.resetEvt]) s.taken_hist
  case dispatch =>
    rw [hdispatch] at hcases
    rcases hcases with ⟨-, hkept⟩ | ⟨hact, -⟩ | ⟨hact, -⟩ | ⟨-, hhist, -⟩
    · exact absurd hkept hstore
    · cases hact
    · cases hact
    · exact hhist

/-! ### Steps that are not enabled (R319, log 4, log 5) -/

section Disabled

variable {α : Type} {f : Fifo α} {s : State} {k depth : Nat}

theorem runAgent_of_none {o : Option State} (h : o = none) : runAgent o s = .next s := by
  rw [h]
  rfl

/-- A synchronizer whose draw is refused, whichever FIFO `set` writes. -/
theorem runAgent_map_of_none {o : Option (Fifo α)} (set : Fifo α → State) (h : o = none) : runAgent (o.map set) s = .next s :=
  runAgent_of_none (Option.map_eq_none_iff.mpr h)

theorem decodeStep_eq_none : decodeStep s = none ↔ s.stopped = true ∨ s.edge.pop = none := by
  rw [← Option.not_isSome_iff_eq_none, isSome_decodeStep, not_and_or, Bool.not_eq_false, Option.not_isSome_iff_eq_none]

theorem dispatchStep_eq_none : dispatchStep s = none ↔ s.stopped = true ∨ s.frame.pop = none := by
  rw [← Option.not_isSome_iff_eq_none, isSome_dispatchStep, not_and_or, Bool.not_eq_false, Option.not_isSome_iff_eq_none]

theorem Fifo.pop_of_rvis_eq_zero (h : f.rvis = 0) : f.pop = none := Fifo.pop_eq_none.mpr (.inl h)

/-- A draw of the write-to-read synchronizer outside `RVIS .. |Q|` (R134, R200). -/
theorem Fifo.syncW2R_eq_none (h : k < f.rvis ∨ f.q.length < k) : f.syncW2R k = none := if_neg (by omega)

/-- A draw of the read-to-write synchronizer outside `WFREE .. depth − |Q|` (R135, R201). -/
theorem Fifo.syncR2W_eq_none (h : k < f.wfree ∨ depth < k + f.q.length) : f.syncR2W depth k = none := if_neg (by omega)

end Disabled

/-- Settles O11: each internal step is `none` where it is not enabled. -/
theorem disabledTurnsChangeNothing : Obligations.DisabledTurnsChangeNothing := fun s _ =>
  ⟨fun h => runAgent_of_none (decodeStep_eq_none.mpr (h.imp_right Fifo.pop_of_rvis_eq_zero)),
    fun h => runAgent_of_none (dispatchStep_eq_none.mpr (h.imp_right Fifo.pop_of_rvis_eq_zero)),
    fun h => runAgent_map_of_none (s.setEdge ·) (Fifo.syncW2R_eq_none h),
    fun h => runAgent_map_of_none (s.setEdge ·) (Fifo.syncR2W_eq_none h),
    fun h => runAgent_map_of_none (s.setFrame ·) (Fifo.syncW2R_eq_none h),
    fun h => runAgent_map_of_none (s.setFrame ·) (Fifo.syncR2W_eq_none h)⟩

end Sys2Proof.Machine

/-! Proofs of the statements of 70_reset_and_hazards.md: RESET (R330), power-on (R331) and the hazard of a frame buffer with fewer
than N channels (R348). -/

namespace Sys2Proof.Machine

/-! ### A frame buffer with fewer than N channels (R348) -/

section TooFewBuffers

variable {s t : State}

/-- CAPTURE at the last index, N - 1, is an overflow where M is less than N (R176), so none completes a frame (R177). -/
theorem capture_frame_of_maxChannels_lt (hM : s.cfg.maxChannels < s.cfg.channelCount) (c : CycleRec) :
    (capture c s).frame = s.frame := by
  rcases capture_cases c s with ⟨-, h⟩ | ⟨hroom, hlast, -⟩ | ⟨-, -, h⟩
  · rw [h]
    rfl
  · omega
  · rw [h]
    rfl

theorem decStep_frame_of_maxChannels_lt (hM : s.cfg.maxChannels < s.cfg.channelCount) (c : CycleRec) :
    (decStep c s).frame = s.frame := by
  rcases decStep_cases c s with ⟨-, h⟩ | ⟨-, -, h⟩ | ⟨-, -, -, h⟩ | ⟨-, -, -, h⟩ <;> rw [h]
  · rfl
  · rfl
  · exact capture_frame_of_maxChannels_lt hM c

theorem consumeEdge_frame_of_maxChannels_lt (hM : s.cfg.maxChannels < s.cfg.channelCount) (e : EdgeRec) :
    (consumeEdge e s).frame = s.frame := by
  rcases consumeEdge_asm_or_dec e s with ⟨a, c, -, h⟩ | h <;> rw [h]
  · rfl
  · exact decStep_frame_of_maxChannels_lt (s := asmHighFall e.ts s) hM _

/-- Where M is less than N a turn only takes from FQ: RESET takes all, DISPATCH the head, and DECODE adds nothing. -/
theorem TurnCase.frame_q_suffix {a : Action} (h : TurnCase s a t) (hM : s.cfg.maxChannels < s.cfg.channelCount) :
    t.frame.q <:+ s.frame.q := by
  cases h with
  | reset => exact List.nil_suffix
  | fsyncW2R k f hsync => rw [State.setFrame_frame, Fifo.syncW2R_q hsync]
  | fsyncR2W k f hsync => rw [State.setFrame_frame, Fifo.syncR2W_q hsync]
  | decoded e f _ _ =>
    rw [consumeEdge_frame_of_maxChannels_lt (s := s.setEdge f) hM e, State.setEdge_frame]
  | dispatched f g _ hpop => exact ⟨[f], (Fifo.pop_q hpop).symm⟩
  | _ => exact List.suffix_rfl

end TooFewBuffers

/-- Settles O47: the queue after a step is a suffix of the queue before it. -/
theorem tooFewBuffersNeverQueueAFrame : Obligations.TooFewBuffersNeverQueueAFrame := by
  intro s t hM hstep f hf
  have hsuffix := (step_cases hstep).frame_q_suffix (by simpa using hM)
  rw [State.taken_frame] at hsuffix
  exact hsuffix.subset hf

/-! ### The reset state (R330, R331) -/

/-- Settles O49: `State.powerOn` at the parameters of this block. -/
theorem powerOnState : Obligations.PowerOnState := ⟨rfl, rfl, rfl, rfl, rfl, rfl, rfl, rfl⟩

theorem exec_reset (s : State) : exec .reset s = .next (s.clear.emit .resetEvt) := rfl

/-- Settles O50: RESET installs the power-on values and emits its event; `HIST` and the parameters are what it keeps. -/
theorem resetRestoresEveryElement : Obligations.ResetRestoresEveryElement := fun s =>
  ⟨rfl, _, exec_reset s, s.clear_edge, s.clear_asm, s.clear_dec, s.clear_frame, s.clear_store, s.clear_stopped, s.clear_cnt,
    State.emit_hist s.clear .resetEvt, s.clear_cfg⟩

end Sys2Proof.Machine
